-- ==== Sys2Proof/Word.lean ====
section
/-! DEFINITION. The word types of PINBLK-CORE (00_scope R7, 20_memory R60). -/

namespace Sys2Proof

/-- A byte, or a character held as its ASCII code (00_scope R7). -/
abbrev Byte := BitVec 8

/-- A 32-bit bus word, register or command word (10_state R21, 30_encoding R80). -/
abbrev Word := BitVec 32

/-- One 8-byte cipher block read as a 64-bit value (41_des_engine R110). -/
abbrev Block := BitVec 64

end Sys2Proof
end

