-- ==== Sys2Proof/Config.lean ====
section
/-! DEFINITION. What an implementation fixes: the parameters of 00_scope R6, and the two OPEN
parameters LATENCY and BASE as constants with no body (92_eei_decisions, "Open parameters"). -/

namespace Sys2Proof.Config

/-- LATENCY: the host steps between the k-th accepted CMD write and its completion.
OPEN and finite, "may differ from command to command and between runs" (70_reset_and_hazards R246);
a free value, log entry 2. -/
opaque latency : Nat → Nat

/-- The 256-byte page of the host's bus the window stands on. OPEN (D3), a free value, log entry 4. -/
opaque basePage : Nat

/-- BASE, "aligned to 256 bytes" (92_eei_decisions, "Open parameters"; 20_memory R60). -/
def base : Nat := 256 * basePage

/-- Bytes of the register window (00_scope R6, decision D3). -/
abbrev windowBytes : Nat := 0x100

/-- BLOCK_BYTES (00_scope R6). -/
abbrev blockBytes : Nat := 8

/-- KEY_BYTES, the expanded key (00_scope R6). -/
abbrev keyBytes : Nat := 24

/-- PIN_MIN (00_scope R6). -/
abbrev pinMin : Nat := 1

/-- PIN_MAX (00_scope R6). -/
abbrev pinMax : Nat := 9

/-- PAN_MIN (00_scope R6). -/
abbrev panMin : Nat := 13

/-- PAN_MAX, the capacity of PAN (00_scope R6, decision D8). -/
abbrev panMax : Nat := 24

/-- PIN_BUF, the capacity of PIN (00_scope R6, decision D9). -/
abbrev pinBuf : Nat := 16

/-- FIELD_CHARS, the capacity of FIELDA and FIELDB (00_scope R6). -/
abbrev fieldChars : Nat := 16

/-- PINOUT_CHARS, the capacity of PINOUT (00_scope R6). -/
abbrev pinoutChars : Nat := 16

/-- DECODE_LEN_LIMIT: "a decoded length above 10 is rejected" (00_scope R6, 45_pipelines R192). -/
abbrev decodeLenLimit : Nat := 10

end Sys2Proof.Config
end

