-- ==== Sys2Proof/Syntax.lean ====
section
/-! DEFINITION. The ten commands of 30_encoding R86, one constructor per row of spec/opcode_table.json. -/

namespace Sys2Proof

/-- The one-bit operand select SRC = CMD[8] (30_encoding R82). -/
inductive Src where
  /-- SRC = 0: the packed FIELDA for MASK (`.FLD`), BLKIN for ENCRYPT and DECRYPT (`.IN`). -/
  | input
  /-- SRC = 1: BLKOUT (`.OUT`). -/
  | blkout
  deriving DecidableEq, Repr

/-- A command, as `decode` of 30_encoding R86 reads it from a command word. -/
inductive Instr where
  /-- EXPAND, OP 0x01 (40_key_expander R101). -/
  | expand
  /-- PADPIN, OP 0x02 (42_format_encoder R141). -/
  | padpin
  /-- SHIFTPAN, OP 0x03 (42_format_encoder R143). -/
  | shiftpan
  /-- MASK, OP 0x04 (43_mask R161). -/
  | mask (src : Src)
  /-- ENCRYPT, OP 0x05 (41_des_engine R133). -/
  | encrypt (src : Src)
  /-- DECRYPT, OP 0x06 (41_des_engine R134). -/
  | decrypt (src : Src)
  /-- BCD2DEC, OP 0x07, N = BYTEF (44_bcd_decoder R171). -/
  | bcd2dec (n : BitVec 4)
  /-- BCD2ASCII, OP 0x08, OFF = BYTEF and D = DIGF (44_bcd_decoder R174). -/
  | bcd2ascii (off : BitVec 4) (d : BitVec 5)
  /-- ENCODE, OP 0x10 (45_pipelines R190). -/
  | encode
  /-- DECODE, OP 0x11 (45_pipelines R192). -/
  | decode
  deriving DecidableEq, Repr

end Sys2Proof
end

