-- ==== Sys2Proof/WellFormed.lean ====
section
/-! DEFINITION. The range conditions on immediates: 30_encoding R83 (BYTEF) and R84 (DIGF). -/

namespace Sys2Proof

/-- "Legal values are 0..8" for N of BCD2DEC (30_encoding R83). -/
def byteCountLegal (n : BitVec 4) : Bool := decide (n.toNat ≤ 8)

/-- "Legal values are 0..7" for OFF of BCD2ASCII (30_encoding R83). -/
def byteOffsetLegal (off : BitVec 4) : Bool := decide (off.toNat ≤ 7)

/-- "Legal values are 0..16" for D of BCD2ASCII (30_encoding R84). -/
def digitCountLegal (d : BitVec 5) : Bool := decide (d.toNat ≤ 16)

/-- A command a legal command word stands for. -/
def Instr.wellFormed : Instr → Bool
  | .expand => true
  | .padpin => true
  | .shiftpan => true
  | .mask _ => true
  | .encrypt _ => true
  | .decrypt _ => true
  | .bcd2dec n => byteCountLegal n
  | .bcd2ascii off d => byteOffsetLegal off && digitCountLegal d
  | .encode => true
  | .decode => true

end Sys2Proof
end

