-- ==== Sys2Proof/Decode.lean ====
section
/-! DEFINITION. The command word: its fields, `decode` of 30_encoding R86, total and rejecting by
name, the encoder of R89, and the host's numbering of a word's bits. -/

namespace Sys2Proof

/-- Why a word is illegal (30_encoding R87). -/
inductive DecodeError where
  /-- A reserved bit CMD[15:9] or CMD[31:25] is set (R85). -/
  | reservedBit
  /-- OP is not in the table of R86 (R81). -/
  | unknownOp
  /-- A field the operation does not use is not 0 (R86 "Fixed"). -/
  | unusedField
  /-- BYTEF is out of range (R83). -/
  | byteFieldRange
  /-- DIGF is out of range (R84). -/
  | digitFieldRange
  /-- The bytes given are not one 32-bit word (R80: one format, 32 bits). -/
  | notOneWord
  deriving DecidableEq, Repr

/-- OP = CMD[7:0] (R81). -/
def opField (w : Word) : BitVec 8 := w.extractLsb' 0 8

/-- SRC = CMD[8] (R82). -/
def srcField (w : Word) : BitVec 1 := w.extractLsb' 8 1

/-- BYTEF = CMD[19:16] (R83). -/
def byteField (w : Word) : BitVec 4 := w.extractLsb' 16 4

/-- DIGF = CMD[24:20] (R84). -/
def digitField (w : Word) : BitVec 5 := w.extractLsb' 20 5

/-- The reserved bits CMD[15:9] and CMD[31:25] are 0 (R85). -/
def reservedClear (w : Word) : Bool := w.extractLsb' 9 7 == 0#7 && w.extractLsb' 25 7 == 0#7

/-- The register SRC selects (R82). -/
def srcOf (b : BitVec 1) : Src := if b = 0#1 then .input else .blkout

/-- A command that uses no field (R86). -/
def decodePlain (w : Word) (i : Instr) : Except DecodeError Instr :=
  if srcField w = 0#1 ∧ byteField w = 0#4 ∧ digitField w = 0#5 then .ok i else .error .unusedField

/-- A command that uses SRC only (R86). -/
def decodeSrc (w : Word) (mk : Src → Instr) : Except DecodeError Instr :=
  if byteField w = 0#4 ∧ digitField w = 0#5 then .ok (mk (srcOf (srcField w)))
  else .error .unusedField

/-- BCD2DEC: BYTEF = N ≤ 8 (R83, R86). -/
def decodeBcd2dec (w : Word) : Except DecodeError Instr :=
  if ¬ (srcField w = 0#1 ∧ digitField w = 0#5) then .error .unusedField
  else if byteCountLegal (byteField w) then .ok (.bcd2dec (byteField w))
  else .error .byteFieldRange

/-- BCD2ASCII: BYTEF = OFF ≤ 7, DIGF = D ≤ 16 (R83, R84, R86). -/
def decodeBcd2ascii (w : Word) : Except DecodeError Instr :=
  if ¬ srcField w = 0#1 then .error .unusedField
  else if ¬ byteOffsetLegal (byteField w) then .error .byteFieldRange
  else if digitCountLegal (digitField w) then .ok (.bcd2ascii (byteField w) (digitField w))
  else .error .digitFieldRange

/-- `decode` of 30_encoding R86, with the reason an illegal word is rejected. -/
def decode (w : Word) : Except DecodeError Instr :=
  if ¬ reservedClear w then .error .reservedBit
  else if opField w = 0x01#8 then decodePlain w .expand
  else if opField w = 0x02#8 then decodePlain w .padpin
  else if opField w = 0x03#8 then decodePlain w .shiftpan
  else if opField w = 0x04#8 then decodeSrc w .mask
  else if opField w = 0x05#8 then decodeSrc w .encrypt
  else if opField w = 0x06#8 then decodeSrc w .decrypt
  else if opField w = 0x07#8 then decodeBcd2dec w
  else if opField w = 0x08#8 then decodeBcd2ascii w
  else if opField w = 0x10#8 then decodePlain w .encode
  else if opField w = 0x11#8 then decodePlain w .decode
  else .error .unknownOp

/-- A bus word from its four bytes, the byte at the lowest offset in bits 7:0 (20_memory R61). -/
def wordOfBytes (b0 b1 b2 b3 : Byte) : Word := b3 ++ b2 ++ b1 ++ b0

/-- Byte lane `k` of a bus word: bits [8k+7:8k] (20_memory R61). -/
def byteOfWord (w : Word) (k : Nat) : Byte := w.extractLsb' (8 * k) 8

/-- Decoding from bytes: a command is exactly one 32-bit word (R80). -/
def decodeBytes : List Byte → Except DecodeError Instr
  | [b0, b1, b2, b3] => decode (wordOfBytes b0 b1 b2 b3)
  | _ => .error .notOneWord

/-- The SRC bit of a register selection (R82). -/
def srcBit : Src → BitVec 1
  | .input => 0#1
  | .blkout => 1#1

/-- A command word from its fields: `OP | SRC<<8 | BYTEF<<16 | DIGF<<20` (R89). -/
def assemble (op : BitVec 8) (src : BitVec 1) (bytef : BitVec 4) (digf : BitVec 5) : Word :=
  op.setWidth 32 ||| src.setWidth 32 <<< 8 ||| bytef.setWidth 32 <<< 16 ||| digf.setWidth 32 <<< 20

/-- The word of a command (R86, R89). -/
def encode : Instr → Word
  | .expand => assemble 0x01#8 0#1 0#4 0#5
  | .padpin => assemble 0x02#8 0#1 0#4 0#5
  | .shiftpan => assemble 0x03#8 0#1 0#4 0#5
  | .mask src => assemble 0x04#8 (srcBit src) 0#4 0#5
  | .encrypt src => assemble 0x05#8 (srcBit src) 0#4 0#5
  | .decrypt src => assemble 0x06#8 (srcBit src) 0#4 0#5
  | .bcd2dec n => assemble 0x07#8 0#1 n 0#5
  | .bcd2ascii off d => assemble 0x08#8 0#1 off d
  | .encode => assemble 0x10#8 0#1 0#4 0#5
  | .decode => assemble 0x11#8 0#1 0#4 0#5

/-- The command word whose bits are `w` below `nbits` and 0 above. -/
def tableWord (nbits w : Nat) : Word := BitVec.ofNat 32 (w % 2 ^ nbits)

/-- What the decoder reads from the word whose bits are `w`, laid out in the byte order of R61. -/
def decodeTableWord (nbits w : Nat) : Option Instr :=
  if nbits ≤ 32 then
    let v := tableWord nbits w
    (decodeBytes [byteOfWord v 0, byteOfWord v 1, byteOfWord v 2, byteOfWord v 3]).toOption
  else none

end Sys2Proof
end

