-- ==== Sys2Proof/Machine/State.lean ====
section
/-! DEFINITION. The state of PINBLK-CORE as plain data: the register window of 10_state R21, the
internal key KX (R47), the pending-command latch (R48), and the host's side of the bus. -/

namespace Sys2Proof.Machine

/-- The flags of STATUS (10_state R23-R28). Bits 7:5 and 31:16 read as 0 and are not stored. -/
structure Status where
  /-- BUSY, bit 0 (R23). -/
  busy : Bool
  /-- DONE, bit 1 (R24). -/
  done : Bool
  /-- ERR, bit 2 (R25). -/
  err : Bool
  /-- KEYVALID, bit 3 (R26). -/
  keyvalid : Bool
  /-- OVR, bit 4 (R27). -/
  ovr : Bool
  /-- ERRCODE, bits 15:8 (R28). -/
  errcode : BitVec 8
  deriving DecidableEq, Repr

/-- The eight input registers, which the latch snapshots together (10_state R30-R33, R35-R38, R48). -/
structure Inputs where
  /-- FORMAT, 8 bits (R30). -/
  format : Byte
  /-- KEYLEN (R31). -/
  keylen : Word
  /-- PINLEN (R32). -/
  pinlen : Word
  /-- PANLEN (R33). -/
  panlen : Word
  /-- KEY[0..23], write-only (R35). -/
  key : Vector Byte 24
  /-- PIN[0..15] (R36). -/
  pin : Vector Byte 16
  /-- PAN[0..23] (R37). -/
  pan : Vector Byte 24
  /-- BLKIN[0..7] (R38). -/
  blkin : Vector Byte 8
  deriving DecidableEq, Repr

/-- The contents of the full pending-command latch (10_state R48). -/
structure Pending where
  /-- The accepted command word. -/
  word : Word
  /-- The input registers as they stood at the accepted CMD write. -/
  snap : Inputs
  /-- The model's own: host steps left until the completion step (log entry 2). -/
  wait : Nat
  deriving DecidableEq, Repr

/-- Where a host access goes. -/
inductive BusAddr where
  /-- A byte offset of the register window, as `MemRead(off, 4)` of 00_scope R8 gives it. -/
  | window (off : Nat)
  /-- An address of the host's bus, on which the window stands at BASE (20_memory R60). -/
  | bus (addr : Nat)
  deriving DecidableEq, Repr

/-- What the host does in one step (30_encoding R88, 60_exceptions R229). -/
inductive HostOp where
  /-- A read of `width` bytes; `rd OFF` is `.rd (.window OFF) 4` (R88). -/
  | rd (at_ : BusAddr) (width : Nat)
  /-- A write of `width` bytes; `wr OFF, VAL` is `.wr (.window OFF) 4 VAL` (R88). -/
  | wr (at_ : BusAddr) (width : Nat) (value : Word)
  /-- `poll`: read STATUS until BUSY = 0 (R88). -/
  | poll
  /-- The reset input is asserted (R229, 70_reset_and_hazards R240). -/
  | assertReset
  deriving DecidableEq, Repr

/-- Why the machine stops with a fault. -/
inductive Fault where
  /-- `BusError(off, width)`: a host access inside the window that is not 32 bits wide at a
  4-byte-aligned offset; raised by a host read or write (20_memory R62, 60_exceptions R220).
  Safe: the spec itself ends the run there. -/
  | busError (off width : Nat)
  deriving DecidableEq, Repr

/-- Why the model gives a step no meaning. -/
inductive Refusal where
  /-- The arm of an instruction without a meaning; no arm of this model raises it. Safe. -/
  | notModelled (mnemonic : String)
  /-- A host access outside the window, which "is not decoded by this block" (20_memory R62,
  93_implementation_defined row 10: refuse); raised by a host read or write. Safe. -/
  | outsideWindow (at_ : BusAddr)
  deriving DecidableEq, Repr

/-- Everything the spec gives the machine (10_state R20). -/
structure State where
  /-- CMD (R22). -/
  cmd : Word
  /-- STATUS (R23-R28). -/
  status : Status
  /-- ERRINFO (R29). -/
  errinfo : Word
  /-- The input registers (R30-R33, R35-R38). -/
  inputs : Inputs
  /-- OUTLEN, bits 3:0 (R34). -/
  outlen : BitVec 4
  /-- BLKOUT[0..7] (R39). -/
  blkout : Vector Byte 8
  /-- ACC (R40). -/
  acc : BitVec 64
  /-- FIELDA[0..15] (R41). -/
  fielda : Vector Byte 16
  /-- FIELDA_LEN, bits 4:0 (R43). -/
  fieldaLen : BitVec 5
  /-- FIELDB[0..15] (R42). -/
  fieldb : Vector Byte 16
  /-- FIELDB_LEN, bits 4:0 (R44). -/
  fieldbLen : BitVec 5
  /-- PINOUT[0..15] (R46). -/
  pinout : Vector Byte 16
  /-- PINOUT_LEN, bits 4:0 (R45). -/
  pinoutLen : BitVec 5
  /-- KX[0..23], the internal expanded key (R47). -/
  kx : Vector Byte 24
  /-- The pending-command latch, empty or full (R48). -/
  latch : Option Pending
  /-- The host's statements still to be performed, the next one first (log entry 1). -/
  hostOps : List HostOp
  /-- What the host's `rd` and `poll` statements returned, newest first (30_encoding R88); a
  `poll` returns its final STATUS only (log entry 12). -/
  reads : List Word
  /-- The model's own: how many latencies have been drawn (log entry 2). -/
  draws : Nat
  deriving DecidableEq, Repr

/-- STATUS after reset (70_reset_and_hazards R240). -/
def Status.reset : Status :=
  { busy := false, done := false, err := false, keyvalid := false, ovr := false, errcode := 0 }

/-- The input registers after reset (70_reset_and_hazards R240). -/
def Inputs.reset : Inputs :=
  { format := 0, keylen := 0, pinlen := 0, panlen := 0,
    key := Vector.replicate 24 0, pin := Vector.replicate 16 0,
    pan := Vector.replicate 24 0, blkin := Vector.replicate 8 0 }

/-- The machine right after reset: every register reads 0, KX is 0, the latch is empty
(70_reset_and_hazards R240). `hostOps`, `reads` and `draws` are the model's (log entries 1, 2). -/
def State.reset : State :=
  { cmd := 0, status := Status.reset, errinfo := 0, inputs := Inputs.reset,
    outlen := 0, blkout := Vector.replicate 8 0, acc := 0,
    fielda := Vector.replicate 16 0, fieldaLen := 0,
    fieldb := Vector.replicate 16 0, fieldbLen := 0,
    pinout := Vector.replicate 16 0, pinoutLen := 0,
    kx := Vector.replicate 24 0, latch := none,
    hostOps := [], reads := [], draws := 0 }

/-- How a step, or the meaning of a command, ends. -/
abbrev Result := Host.Outcome State Fault Refusal

end Sys2Proof.Machine
end

