-- ==== Sys2Proof/Machine/Flags.lean ====
section
/-! DEFINITION. STATUS and the error outcomes: the STATUS word (10_state R23-R28), the nine error
kinds with their codes and ERRINFO values (60_exceptions R211, R216), and the three changes of the
flags (issue R212, error R213, success R214). -/

namespace Sys2Proof.Machine

/-- The field a HexDecodeError names (42_format_encoder R145). -/
inductive FieldId where
  /-- 1: the padded PIN field. -/
  | paddedPin
  /-- 2: the shifted PAN field. -/
  | shiftedPan
  deriving DecidableEq, Repr

/-- The error outcomes of a command, with what each carries (60_exceptions R211). -/
inductive CmdError where
  | pinSize (len : Word)
  | isoFormat (format : Byte)
  | keySize (len : Word)
  | hexDecode (field : FieldId)
  | panSize (len : Word)
  | lengthMismatch (lenA lenB : Nat)
  | insufficientData (count : Nat)
  | keyNotLoaded
  | illegalCommand (word : Word)
  deriving DecidableEq, Repr

/-- The number of a field (42_format_encoder R145). -/
def FieldId.number : FieldId → Word
  | .paddedPin => 1
  | .shiftedPan => 2

/-- ERRCODE (60_exceptions R211). -/
def CmdError.code : CmdError → BitVec 8
  | .pinSize _ => 1
  | .isoFormat _ => 2
  | .keySize _ => 3
  | .hexDecode _ => 4
  | .panSize _ => 5
  | .lengthMismatch _ _ => 6
  | .insufficientData _ => 7
  | .keyNotLoaded => 8
  | .illegalCommand _ => 9

/-- ERRINFO (60_exceptions R211, R216). -/
def CmdError.info : CmdError → Word
  | .pinSize len => len
  | .isoFormat format => format.setWidth 32
  | .keySize len => len
  | .hexDecode field => field.number
  | .panSize len => len
  | .lengthMismatch lenA lenB => BitVec.ofNat 32 lenA <<< 16 ||| BitVec.ofNat 32 lenB
  | .insufficientData count => BitVec.ofNat 32 count
  | .keyNotLoaded => 0
  | .illegalCommand word => word

/-- The STATUS word: BUSY[0], DONE[1], ERR[2], KEYVALID[3], OVR[4], ERRCODE[15:8]; others 0
(10_state R21, R28). -/
def Status.toWord (st : Status) : Word :=
  0#16 ++ st.errcode ++ 0#3 ++ BitVec.ofBool st.ovr ++ BitVec.ofBool st.keyvalid ++
    BitVec.ofBool st.err ++ BitVec.ofBool st.done ++ BitVec.ofBool st.busy

/-- The flags at an accepted CMD write; KEYVALID is unchanged (60_exceptions R212). -/
def Status.accepted (st : Status) : Status :=
  { st with busy := true, done := false, err := false, ovr := false, errcode := 0 }

/-- The flags at the completion of a command that succeeded (60_exceptions R212, R214). -/
def Status.succeeded (st : Status) : Status :=
  { st with busy := false, done := true, err := false, errcode := 0 }

/-- The flags at the completion of a command that failed (60_exceptions R212, R213). -/
def Status.failed (st : Status) (e : CmdError) : Status :=
  { st with busy := false, done := true, err := true, errcode := e.code }

end Sys2Proof.Machine
end

