-- ==== Sys2Proof/Machine/Ops.lean ====
section
/-! DEFINITION. The named operations over the registers: byte arrays and their bus words
(20_memory R61), the register window (10_state R21), issue (60_exceptions R212), the two outcomes of
a command (R213, R214: what other machines call taking an exception; there is no return from one,
R218), the writes of the destination registers (R213), and reset (70_reset_and_hazards R240). -/

namespace Sys2Proof.Machine

/-! ### Byte arrays -/

/-- An `n`-byte register that holds the string `bs` from index 0 and 0 above it. -/
def fit (n : Nat) (bs : List Byte) : Vector Byte n :=
  ⟨((bs.take n) ++ List.replicate (n - bs.length) 0#8).toArray, by
    simp only [List.size_toArray, List.length_append, List.length_take, List.length_replicate]
    omega⟩

/-- The bus word of array elements k..k+3 (20_memory R61). -/
def lanes {n : Nat} (v : Vector Byte n) (k : Nat) : Word :=
  wordOfBytes (v.toList.getD k 0) (v.toList.getD (k + 1) 0) (v.toList.getD (k + 2) 0)
    (v.toList.getD (k + 3) 0)

/-- A bus word stored into array elements k..k+3 (20_memory R61). -/
def setLanes {n : Nat} (v : Vector Byte n) (k : Nat) (w : Word) : Vector Byte n :=
  (((v.setIfInBounds k (byteOfWord w 0)).setIfInBounds (k + 1) (byteOfWord w 1)).setIfInBounds
    (k + 2) (byteOfWord w 2)).setIfInBounds (k + 3) (byteOfWord w 3)

/-! ### The register window -/

/-- What a word of the register window is; an array comes with the index of the word's first
element (10_state R21). -/
inductive Loc where
  | cmd | status | errinfo | format | keylen | pinlen | panlen | outlen
  | key (k : Nat) | pin (k : Nat) | pan (k : Nat) | blkin (k : Nat) | blkout (k : Nat)
  | accLo | accHi
  | fielda (k : Nat) | fieldb (k : Nat)
  | fieldaLen | fieldbLen | pinoutLen
  | pinout (k : Nat)
  | reserved
  deriving DecidableEq, Repr

/-- The register map: the register at a word-aligned offset of the window (10_state R21). -/
def locate (off : Nat) : Loc :=
  if off < 0x004 then .cmd
  else if off < 0x008 then .status
  else if off < 0x00C then .errinfo
  else if off < 0x010 then .format
  else if off < 0x014 then .keylen
  else if off < 0x018 then .pinlen
  else if off < 0x01C then .panlen
  else if off < 0x020 then .outlen
  else if off < 0x038 then .key (off - 0x020)
  else if off < 0x040 then .reserved
  else if off < 0x050 then .pin (off - 0x040)
  else if off < 0x068 then .pan (off - 0x050)
  else if off < 0x070 then .blkin (off - 0x068)
  else if off < 0x078 then .blkout (off - 0x070)
  else if off < 0x07C then .accLo
  else if off < 0x080 then .accHi
  else if off < 0x090 then .fielda (off - 0x080)
  else if off < 0x0A0 then .fieldb (off - 0x090)
  else if off < 0x0A4 then .fieldaLen
  else if off < 0x0A8 then .fieldbLen
  else if off < 0x0AC then .pinoutLen
  else if off < 0x0B0 then .reserved
  else if off < 0x0C0 then .pinout (off - 0x0B0)
  else .reserved

/-- What a host read of a register returns: KEY is write-only and reserved offsets are RAZ/WI, so
both read 0 (10_state R21, R35, R49). -/
def Loc.read (s : State) : Loc → Word
  | .cmd => s.cmd
  | .status => s.status.toWord
  | .errinfo => s.errinfo
  | .format => s.inputs.format.setWidth 32
  | .keylen => s.inputs.keylen
  | .pinlen => s.inputs.pinlen
  | .panlen => s.inputs.panlen
  | .outlen => s.outlen.setWidth 32
  | .key _ => 0
  | .pin k => lanes s.inputs.pin k
  | .pan k => lanes s.inputs.pan k
  | .blkin k => lanes s.inputs.blkin k
  | .blkout k => lanes s.blkout k
  | .accLo => s.acc.extractLsb' 0 32
  | .accHi => s.acc.extractLsb' 32 32
  | .fielda k => lanes s.fielda k
  | .fieldb k => lanes s.fieldb k
  | .fieldaLen => s.fieldaLen.setWidth 32
  | .fieldbLen => s.fieldbLen.setWidth 32
  | .pinoutLen => s.pinoutLen.setWidth 32
  | .pinout k => lanes s.pinout k
  | .reserved => 0

/-- What a host write of `v` does to the input registers: RW and WO registers store it, truncated to
their width; every other offset ignores it (10_state R21). CMD is not an input register. -/
def Loc.store (x : Inputs) (v : Word) : Loc → Inputs
  | .format => { x with format := v.setWidth 8 }
  | .keylen => { x with keylen := v }
  | .pinlen => { x with pinlen := v }
  | .panlen => { x with panlen := v }
  | .key k => { x with key := setLanes x.key k v }
  | .pin k => { x with pin := setLanes x.pin k v }
  | .pan k => { x with pan := setLanes x.pan k v }
  | .blkin k => { x with blkin := setLanes x.blkin k v }
  | .cmd | .status | .errinfo | .outlen | .blkout _ | .accLo | .accHi | .fielda _ | .fieldb _
  | .fieldaLen | .fieldbLen | .pinoutLen | .pinout _ | .reserved => x

/-! ### Issue -/

/-- An accepted write of `w` to CMD, in one step: CMD and the latch take `w`, the latch the snapshot
of the input registers, the flags and ERRINFO are cleared (60_exceptions R212). The completion comes
after `wait` host steps. -/
def State.issue (s : State) (w : Word) (wait : Nat) : State :=
  { s with
    cmd := w, status := s.status.accepted, errinfo := 0,
    latch := some { word := w, snap := s.inputs, wait := wait } }

/-- A CMD write while BUSY = 1: discarded, and OVR is set (10_state R27, 60_exceptions R219). -/
def State.overrun (s : State) : State :=
  { s with status := { s.status with ovr := true } }

/-- A host write of `w` to CMD. An accepted one draws its LATENCY (R212, D15; log entry 2). -/
def State.writeCmd (s : State) (w : Word) : State :=
  if s.status.busy then s.overrun
  else { s.issue w (Config.latency s.draws) with draws := s.draws + 1 }

/-- `MemRead(off, 4)`: the 32-bit word at an aligned offset of the window (00_scope R8). -/
def State.readWindow (s : State) (off : Nat) : Word := (locate off).read s

/-- `MemWrite(off, 4, v)`: a host write at an aligned offset of the window. "A write to CMD is the
only write with a side effect" (00_scope R8, 20_memory R63). -/
def State.writeWindow (s : State) (off : Nat) (v : Word) : State :=
  if locate off = .cmd then s.writeCmd v
  else { s with inputs := (locate off).store s.inputs v }

/-! ### The outcome of a command -/

/-- The completion step of a command that succeeded (60_exceptions R212, R214). -/
def State.succeed (s : State) : State :=
  { s with status := s.status.succeeded, errinfo := 0, latch := none }

/-- The completion step of a command that failed with `e`; the destinations are cleared by the
command itself (60_exceptions R212, R213). -/
def State.fail (s : State) (e : CmdError) : State :=
  { s with status := s.status.failed e, errinfo := e.info, latch := none }

/-- One command: its results on success, its cleared destinations on an error (R213, R214). -/
def State.complete {α : Type} (s : State) (r : Except CmdError α) (store : State → α → State)
    (clear : State → State) : State :=
  match r with
  | .ok a => (store s a).succeed
  | .error e => (clear s).fail e

/-! ### Destination registers -/

/-- BLKOUT takes the byte string `bs`, 0 above it, and OUTLEN its length (10_state R34, R39). -/
def State.putBlkout (s : State) (bs : List Byte) : State :=
  { s with blkout := fit 8 bs, outlen := BitVec.ofNat 4 bs.length }

/-- FIELDA takes the characters `cs`, 0 above them, and FIELDA_LEN their number (R41, R43). -/
def State.putFielda (s : State) (cs : List Byte) : State :=
  { s with fielda := fit 16 cs, fieldaLen := BitVec.ofNat 5 cs.length }

/-- FIELDB takes the characters `cs`, 0 above them, and FIELDB_LEN their number (R42, R44). -/
def State.putFieldb (s : State) (cs : List Byte) : State :=
  { s with fieldb := fit 16 cs, fieldbLen := BitVec.ofNat 5 cs.length }

/-- PINOUT takes the characters `cs`, 0 above them, and PINOUT_LEN their number (R45, R46). -/
def State.putPinout (s : State) (cs : List Byte) : State :=
  { s with pinout := fit 16 cs, pinoutLen := BitVec.ofNat 5 cs.length }

/-- ACC takes a natural number, `zext_64` (10_state R40, 44_bcd_decoder R171). -/
def State.putAcc (s : State) (v : Nat) : State := { s with acc := BitVec.ofNat 64 v }

/-- KX takes an expanded key and KEYVALID becomes 1 (10_state R26, R47). -/
def State.putKx (s : State) (x : Vector Byte 24) : State :=
  { s with kx := x, status := { s.status with keyvalid := true } }

/-- BLKOUT ← 0^8, OUTLEN ← 0: the cleared destinations of MASK, ENCRYPT, DECRYPT, ENCODE (R213). -/
def State.clearBlkout (s : State) : State := s.putBlkout []

/-- FIELDA ← 0^16, FIELDA_LEN ← 0: the cleared destinations of PADPIN (R213). -/
def State.clearFielda (s : State) : State := s.putFielda []

/-- FIELDB ← 0^16, FIELDB_LEN ← 0: the cleared destinations of SHIFTPAN (R213). -/
def State.clearFieldb (s : State) : State := s.putFieldb []

/-- PINOUT ← 0^16, PINOUT_LEN ← 0: the cleared destinations of BCD2ASCII and DECODE (R213). -/
def State.clearPinout (s : State) : State := s.putPinout []

/-- ACC ← 0: the cleared destination of BCD2DEC (R213). -/
def State.clearAcc (s : State) : State := s.putAcc 0

/-- KX ← 0^24, KEYVALID ← 0: the cleared destinations of EXPAND (R213). -/
def State.clearKx (s : State) : State :=
  { s with kx := Vector.replicate 24 0, status := { s.status with keyvalid := false } }

/-! ### Reset -/

/-- The reset input is asserted: the state of R240, a command in flight included (R241). What the
host still wants to do, what it has read and the latencies already drawn are not the block's
registers and stay (log entry 10). -/
def State.resetBlock (s : State) : State :=
  { State.reset with hostOps := s.hostOps, reads := s.reads, draws := s.draws }

end Sys2Proof.Machine
end

