-- ==== Sys2Proof/Machine/Operands.lean ====
section
/-! DEFINITION. The operand forms of the commands: the input snapshot (10_state R48), character and
byte strings of registers, nibbles (00_scope R7), immediates (30_encoding R83, R84), and an 8-byte
block as a 64-bit value (41_des_engine R110). -/

namespace Sys2Proof.Machine

/-- The input registers a command computes from: the snapshot (10_state R48). With the latch empty
no command is in flight and `step` runs none; the live registers stand in (log entry 7). -/
def State.snapshot (s : State) : Inputs :=
  match s.latch with
  | some p => p.snap
  | none => s.inputs

/-- The field in FIELDA: FIELDA[0..FIELDA_LEN-1] (10_state R41). -/
def State.fieldaChars (s : State) : List Byte := s.fielda.toList.take s.fieldaLen.toNat

/-- The field in FIELDB: FIELDB[0..FIELDB_LEN-1] (10_state R42). -/
def State.fieldbChars (s : State) : List Byte := s.fieldb.toList.take s.fieldbLen.toNat

/-- The valid bytes of BLKOUT: BLKOUT[0..OUTLEN-1] (10_state R39). -/
def State.blkoutBytes (s : State) : List Byte := s.blkout.toList.take s.outlen.toNat

/-- The high nibble `x[7:4]` (00_scope R7). -/
def hiNibble (x : Byte) : BitVec 4 := x.extractLsb' 4 4

/-- The low nibble `x[3:0]` (00_scope R7). -/
def loNibble (x : Byte) : BitVec 4 := x.extractLsb' 0 4

/-- BYTEF, "zero-extended and not scaled" (30_encoding R83). -/
def byteImm (n : BitVec 4) : Nat := n.toNat

/-- DIGF, "zero-extended and not scaled" (30_encoding R84). -/
def digitImm (d : BitVec 5) : Nat := d.toNat

/-- An 8-byte block as the value `b[0]·2^56 + b[1]·2^48 + ... + b[7]` (41_des_engine R110). -/
def blockOfBytes (bs : List Byte) : Block :=
  BitVec.ofNat 64 (bs.foldl (fun acc b => acc * 256 + b.toNat) 0)

/-- The 8 bytes of a 64-bit value, most significant first (41_des_engine R110). -/
def bytesOfBlock (x : Block) : List Byte :=
  [x.extractLsb' 56 8, x.extractLsb' 48 8, x.extractLsb' 40 8, x.extractLsb' 32 8,
   x.extractLsb' 24 8, x.extractLsb' 16 8, x.extractLsb' 8 8, x.extractLsb' 0 8]

/-- The checks a cipher command makes, and its input block: KEYVALID first, then for SRC = 1 that
BLKOUT holds 8 bytes (41_des_engine R133, R134; 30_encoding R82). -/
def State.cipherBlock (s : State) (src : Src) : Except CmdError Block :=
  if s.status.keyvalid = false then .error .keyNotLoaded
  else
    match src with
    | .input => .ok (blockOfBytes s.snapshot.blkin.toList)
    | .blkout =>
      if s.outlen.toNat ≠ Config.blockBytes then
        .error (.lengthMismatch s.outlen.toNat Config.blockBytes)
      else .ok (blockOfBytes s.blkout.toList)

/-- A check of a command rule: `if c: raise e` (00_scope R8). -/
def raiseIf (c : Bool) (e : CmdError) : Except CmdError Unit :=
  if c then .error e else .ok ()

end Sys2Proof.Machine
end

