-- ==== Sys2Proof/Machine/Bcd.lean ====
section
/-! DEFINITION. The BCD field reassembler with BCD2DEC and BCD2ASCII (44_bcd_decoder R170-R175). -/

namespace Sys2Proof.Machine

/-- `bcdToDecimal(bs)`: byte 0 is the most significant pair, and a nibble above 9 is weighted as its
binary value (R170). -/
def bcdToDecimal (bs : List Byte) : Nat :=
  bs.foldl (fun acc x => acc * 100 + (hiNibble x).toNat * 10 + (loNibble x).toNat) 0

/-- `asc(v)`, the letters uppercase (R172). -/
def asc (v : BitVec 4) : Byte :=
  if v.toNat ≤ 9 then BitVec.ofNat 8 (0x30 + v.toNat) else BitVec.ofNat 8 (0x41 + (v.toNat - 10))

/-- Nibble `i` of a byte string, the high nibble of each byte first (R173). -/
def nibbleAt (bs : List Byte) (i : Nat) : BitVec 4 :=
  if i % 2 = 0 then hiNibble (bs.getD (i / 2) 0) else loNibble (bs.getD (i / 2) 0)

/-- `bcdToAscii(bs, n)` (R173, R175). -/
def bcdToAscii (bs : List Byte) (n : Nat) : Except CmdError (List Byte) :=
  if bs.length < (n + 1) / 2 then .error (.insufficientData n)
  else .ok ((List.range n).map fun i => asc (nibbleAt bs i))

/-- The number BCD2DEC computes, or its error (R171). -/
def bcd2decResult (s : State) (n : Nat) : Except CmdError Nat :=
  if s.outlen.toNat < n then .error (.insufficientData n)
  else .ok (bcdToDecimal (s.blkout.toList.take n))

/-- BCD2DEC (R171). -/
def execBcd2dec (n : BitVec 4) (s : State) : Result :=
  .next (s.complete (bcd2decResult s (byteImm n)) State.putAcc State.clearAcc)

/-- BCD2ASCII: BLKOUT[OFF..OUTLEN-1], the empty string where OFF ≥ OUTLEN (R174). -/
def execBcd2ascii (off : BitVec 4) (d : BitVec 5) (s : State) : Result :=
  .next (s.complete (bcdToAscii (s.blkoutBytes.drop (byteImm off)) (digitImm d))
    State.putPinout State.clearPinout)

end Sys2Proof.Machine
end

