-- ==== Sys2Proof/Machine/Des.lean ====
section
/-! DEFINITION. The block-cipher engine: the DES tables and algorithm of 41_des_engine R110-R129 and
triple DES (R131, R132). -/

namespace Sys2Proof.Machine

/-- `permute(T, v, n)`: the value whose DES bit j is DES bit T[j] of the `n`-bit value `v`, DES bit i
of an n-bit value being its bit n - i (41_des_engine R110). -/
def permute (m : Nat) {n : Nat} (table : List Nat) (v : BitVec n) : BitVec m :=
  BitVec.ofNat m (table.foldl (fun acc t => 2 * acc + (v.getLsbD (n - t)).toNat) 0)

/-- IP (R111). -/
def tableIP : List Nat :=
  [58, 50, 42, 34, 26, 18, 10, 2] ++
  [60, 52, 44, 36, 28, 20, 12, 4] ++
  [62, 54, 46, 38, 30, 22, 14, 6] ++
  [64, 56, 48, 40, 32, 24, 16, 8] ++
  [57, 49, 41, 33, 25, 17, 9, 1] ++
  [59, 51, 43, 35, 27, 19, 11, 3] ++
  [61, 53, 45, 37, 29, 21, 13, 5] ++
  [63, 55, 47, 39, 31, 23, 15, 7]

/-- FP = IP⁻¹ (R112). -/
def tableFP : List Nat :=
  [40, 8, 48, 16, 56, 24, 64, 32] ++
  [39, 7, 47, 15, 55, 23, 63, 31] ++
  [38, 6, 46, 14, 54, 22, 62, 30] ++
  [37, 5, 45, 13, 53, 21, 61, 29] ++
  [36, 4, 44, 12, 52, 20, 60, 28] ++
  [35, 3, 43, 11, 51, 19, 59, 27] ++
  [34, 2, 42, 10, 50, 18, 58, 26] ++
  [33, 1, 41, 9, 49, 17, 57, 25]

/-- E (R113). -/
def tableE : List Nat :=
  [32, 1, 2, 3, 4, 5] ++
  [4, 5, 6, 7, 8, 9] ++
  [8, 9, 10, 11, 12, 13] ++
  [12, 13, 14, 15, 16, 17] ++
  [16, 17, 18, 19, 20, 21] ++
  [20, 21, 22, 23, 24, 25] ++
  [24, 25, 26, 27, 28, 29] ++
  [28, 29, 30, 31, 32, 1]

/-- P (R114). -/
def tableP : List Nat :=
  [16, 7, 20, 21, 29, 12, 28, 17] ++
  [1, 15, 23, 26, 5, 18, 31, 10] ++
  [2, 8, 24, 14, 32, 27, 3, 9] ++
  [19, 13, 30, 6, 22, 11, 4, 25]

/-- S1 (R116). -/
def tableS1 : List Nat :=
  [14, 4, 13, 1, 2, 15, 11, 8, 3, 10, 6, 12, 5, 9, 0, 7] ++
  [0, 15, 7, 4, 14, 2, 13, 1, 10, 6, 12, 11, 9, 5, 3, 8] ++
  [4, 1, 14, 8, 13, 6, 2, 11, 15, 12, 9, 7, 3, 10, 5, 0] ++
  [15, 12, 8, 2, 4, 9, 1, 7, 5, 11, 3, 14, 10, 0, 6, 13]

/-- S2 (R117). -/
def tableS2 : List Nat :=
  [15, 1, 8, 14, 6, 11, 3, 4, 9, 7, 2, 13, 12, 0, 5, 10] ++
  [3, 13, 4, 7, 15, 2, 8, 14, 12, 0, 1, 10, 6, 9, 11, 5] ++
  [0, 14, 7, 11, 10, 4, 13, 1, 5, 8, 12, 6, 9, 3, 2, 15] ++
  [13, 8, 10, 1, 3, 15, 4, 2, 11, 6, 7, 12, 0, 5, 14, 9]

/-- S3 (R118). -/
def tableS3 : List Nat :=
  [10, 0, 9, 14, 6, 3, 15, 5, 1, 13, 12, 7, 11, 4, 2, 8] ++
  [13, 7, 0, 9, 3, 4, 6, 10, 2, 8, 5, 14, 12, 11, 15, 1] ++
  [13, 6, 4, 9, 8, 15, 3, 0, 11, 1, 2, 12, 5, 10, 14, 7] ++
  [1, 10, 13, 0, 6, 9, 8, 7, 4, 15, 14, 3, 11, 5, 2, 12]

/-- S4 (R119). -/
def tableS4 : List Nat :=
  [7, 13, 14, 3, 0, 6, 9, 10, 1, 2, 8, 5, 11, 12, 4, 15] ++
  [13, 8, 11, 5, 6, 15, 0, 3, 4, 7, 2, 12, 1, 10, 14, 9] ++
  [10, 6, 9, 0, 12, 11, 7, 13, 15, 1, 3, 14, 5, 2, 8, 4] ++
  [3, 15, 0, 6, 10, 1, 13, 8, 9, 4, 5, 11, 12, 7, 2, 14]

/-- S5 (R120). -/
def tableS5 : List Nat :=
  [2, 12, 4, 1, 7, 10, 11, 6, 8, 5, 3, 15, 13, 0, 14, 9] ++
  [14, 11, 2, 12, 4, 7, 13, 1, 5, 0, 15, 10, 3, 9, 8, 6] ++
  [4, 2, 1, 11, 10, 13, 7, 8, 15, 9, 12, 5, 6, 3, 0, 14] ++
  [11, 8, 12, 7, 1, 14, 2, 13, 6, 15, 0, 9, 10, 4, 5, 3]

/-- S6 (R121). -/
def tableS6 : List Nat :=
  [12, 1, 10, 15, 9, 2, 6, 8, 0, 13, 3, 4, 14, 7, 5, 11] ++
  [10, 15, 4, 2, 7, 12, 9, 5, 6, 1, 13, 14, 0, 11, 3, 8] ++
  [9, 14, 15, 5, 2, 8, 12, 3, 7, 0, 4, 10, 1, 13, 11, 6] ++
  [4, 3, 2, 12, 9, 5, 15, 10, 11, 14, 1, 7, 6, 0, 8, 13]

/-- S7 (R122). -/
def tableS7 : List Nat :=
  [4, 11, 2, 14, 15, 0, 8, 13, 3, 12, 9, 7, 5, 10, 6, 1] ++
  [13, 0, 11, 7, 4, 9, 1, 10, 14, 3, 5, 12, 2, 15, 8, 6] ++
  [1, 4, 11, 13, 12, 3, 7, 14, 10, 15, 6, 8, 0, 5, 9, 2] ++
  [6, 11, 13, 8, 1, 4, 10, 7, 9, 5, 0, 15, 14, 2, 3, 12]

/-- S8 (R123). -/
def tableS8 : List Nat :=
  [13, 2, 8, 4, 6, 15, 11, 1, 10, 9, 3, 14, 5, 0, 12, 7] ++
  [1, 15, 13, 8, 10, 3, 7, 4, 12, 5, 6, 11, 0, 14, 9, 2] ++
  [7, 11, 4, 1, 9, 12, 14, 2, 0, 6, 10, 13, 15, 3, 5, 8] ++
  [2, 1, 14, 7, 4, 10, 8, 13, 15, 12, 9, 0, 3, 5, 6, 11]

/-- S1..S8 in order (R115). -/
def sboxes : List (List Nat) :=
  [tableS1, tableS2, tableS3, tableS4, tableS5, tableS6, tableS7, tableS8]

/-- PC-1 (R123). -/
def tablePC1 : List Nat :=
  [57, 49, 41, 33, 25, 17, 9] ++
  [1, 58, 50, 42, 34, 26, 18] ++
  [10, 2, 59, 51, 43, 35, 27] ++
  [19, 11, 3, 60, 52, 44, 36] ++
  [63, 55, 47, 39, 31, 23, 15] ++
  [7, 62, 54, 46, 38, 30, 22] ++
  [14, 6, 61, 53, 45, 37, 29] ++
  [21, 13, 5, 28, 20, 12, 4]

/-- PC-2 (R124). -/
def tablePC2 : List Nat :=
  [14, 17, 11, 24, 1, 5] ++
  [3, 28, 15, 6, 21, 10] ++
  [23, 19, 12, 4, 26, 8] ++
  [16, 7, 27, 20, 13, 2] ++
  [41, 52, 31, 37, 47, 55] ++
  [30, 40, 51, 45, 33, 48] ++
  [44, 49, 39, 56, 34, 53] ++
  [46, 42, 50, 36, 29, 32]

/-- The left-rotation amounts of rounds 1..16 (R125). -/
def shiftAmounts : List Nat := [1, 1, 2, 2, 2, 2, 2, 2, 1, 2, 2, 2, 2, 2, 2, 1]

/-- `rotl28` (R126). -/
def rotl28 (x : BitVec 28) (k : Nat) : BitVec 28 := x <<< k ||| x >>> (28 - k)

/-- The round keys from the halves C and D, one per rotation amount (R126). -/
def scheduleFrom : List Nat → BitVec 28 → BitVec 28 → List (BitVec 48)
  | [], _, _ => []
  | k :: ks, c, d =>
    permute 48 tablePC2 (rotl28 c k ++ rotl28 d k) :: scheduleFrom ks (rotl28 c k) (rotl28 d k)

/-- The DES key schedule: sixteen 48-bit round keys (R126). -/
def schedule (k : Block) : List (BitVec 48) :=
  let cd := permute 56 tablePC1 k
  scheduleFrom shiftAmounts (cd.extractLsb' 28 28) (cd.extractLsb' 0 28)

/-- Substitution box `j` (0 for S1) on a 6-bit input: row 2·a1 + a6, column a2a3a4a5 (R115). -/
def sbox (j : Nat) (a : BitVec 6) : BitVec 4 :=
  BitVec.ofNat 4 ((sboxes.getD j []).getD
    (16 * (2 * (a.extractLsb' 5 1).toNat + (a.extractLsb' 0 1).toNat) +
      (a.extractLsb' 1 4).toNat) 0)

/-- s_1 ‖ s_2 ‖ ... ‖ s_8 of a 48-bit value, group 1 most significant (R127). -/
def substitute (x : BitVec 48) : BitVec 32 :=
  sbox 0 (x.extractLsb' 42 6) ++ sbox 1 (x.extractLsb' 36 6) ++ sbox 2 (x.extractLsb' 30 6) ++
  sbox 3 (x.extractLsb' 24 6) ++ sbox 4 (x.extractLsb' 18 6) ++ sbox 5 (x.extractLsb' 12 6) ++
  sbox 6 (x.extractLsb' 6 6) ++ sbox 7 (x.extractLsb' 0 6)

/-- The round function f (R127). -/
def roundF (r : BitVec 32) (k : BitVec 48) : BitVec 32 :=
  permute 32 tableP (substitute (permute 48 tableE r ^^^ k))

/-- Rounds over the halves L and R: (L, R) ← (R, L ⊕ f(R, K_i)) (R128). -/
def rounds : List (BitVec 48) → BitVec 32 → BitVec 32 → BitVec 32 × BitVec 32
  | [], l, r => (l, r)
  | k :: ks, l, r => rounds ks r (l ^^^ roundF r k)

/-- The DES transformation under a list of round keys: IP, the rounds, the halves swapped, FP (R128). -/
def desWith (keys : List (BitVec 48)) (x : Block) : Block :=
  let v := permute 64 tableIP x
  let lr := rounds keys (v.extractLsb' 32 32) (v.extractLsb' 0 32)
  permute 64 tableFP (lr.2 ++ lr.1)

/-- DES encryption (R128). -/
def desE (k x : Block) : Block := desWith (schedule k) x

/-- DES decryption: the round keys in reverse order (R129). -/
def desD (k y : Block) : Block := desWith (schedule k).reverse y

/-- Sub-key `j` (0 for K1) of the expanded key, X[8j..8j+7] (40_key_expander R102). -/
def subKey (x : Vector Byte 24) (j : Nat) : Block :=
  blockOfBytes ((x.toList.drop (8 * j)).take 8)

/-- Triple-DES encryption: encrypt, decrypt, encrypt (R131). -/
def tdesE (x : Vector Byte 24) (b : Block) : Block :=
  desE (subKey x 2) (desD (subKey x 1) (desE (subKey x 0) b))

/-- Triple-DES decryption (R132). -/
def tdesD (x : Vector Byte 24) (b : Block) : Block :=
  desD (subKey x 0) (desE (subKey x 1) (desD (subKey x 2) b))

end Sys2Proof.Machine
end

