-- ==== Sys2Proof/Machine/Cipher.lean ====
section
/-! DEFINITION. ENCRYPT and DECRYPT: exactly one triple-DES on exactly one block (41_des_engine
R133-R135). -/

namespace Sys2Proof.Machine

/-- ENCRYPT (R133). -/
def execEncrypt (src : Src) (s : State) : Result :=
  .next (s.complete (s.cipherBlock src) (fun t x => t.putBlkout (bytesOfBlock (tdesE s.kx x)))
    State.clearBlkout)

/-- DECRYPT (R134). -/
def execDecrypt (src : Src) (s : State) : Result :=
  .next (s.complete (s.cipherBlock src) (fun t y => t.putBlkout (bytesOfBlock (tdesD s.kx y)))
    State.clearBlkout)

end Sys2Proof.Machine
end

