-- ==== Sys2Proof/Machine/KeyExpander.lean ====
section
/-! DEFINITION. The key expander and EXPAND (40_key_expander R100-R104). -/

namespace Sys2Proof.Machine

/-- `expandKey(key, kl)` (40_key_expander R100). -/
def expandKey (key : Vector Byte 24) (kl : Word) : Except CmdError (Vector Byte 24) :=
  if kl = 8 then .ok (fit 24 (key.toList.take 8 ++ key.toList.take 8 ++ key.toList.take 8))
  else if kl = 16 then .ok (fit 24 (key.toList.take 16 ++ key.toList.take 8))
  else if kl = 24 then .ok key
  else .error (.keySize kl)

/-- EXPAND (40_key_expander R101). -/
def execExpand (s : State) : Result :=
  .next (s.complete (expandKey s.snapshot.key s.snapshot.keylen) State.putKx State.clearKx)

end Sys2Proof.Machine
end

