-- ==== Sys2Proof/Machine/Format.lean ====
section
/-! DEFINITION. The format encoder and the nibble packer, with PADPIN and SHIFTPAN
(42_format_encoder R140-R148). -/

namespace Sys2Proof.Machine

/-- The character '0'. -/
abbrev charZero : Byte := 0x30#8

/-- The fill character 'F' (R140). -/
abbrev charFill : Byte := 0x46#8

/-- `padPin(fmt, pin, pl)`: the length is checked before the format; the characters are copied
unchanged (R140). -/
def padPin (fmt : Byte) (pin : Vector Byte 16) (pl : Word) : Except CmdError (List Byte) :=
  if pl.toNat < Config.pinMin ∨ Config.pinMax < pl.toNat then .error (.pinSize pl)
  else if fmt = 0 then
    .ok (charZero :: (charZero + pl.setWidth 8) :: (pin.toList.take pl.toNat ++
      List.replicate (14 - pl.toNat) charFill))
  else if fmt = 1 ∨ fmt = 3 then
    .ok ((charZero + fmt) :: (charZero + pl.setWidth 8) :: pin.toList.take pl.toNat)
  else .error (.isoFormat fmt)

/-- `shiftPan(fmt, pan, pl)`: the format is checked before the length (R142). -/
def shiftPan (fmt : Byte) (pan : Vector Byte 24) (pl : Word) : Except CmdError (List Byte) :=
  if fmt ≠ 0 then .error (.isoFormat fmt)
  else if pl.toNat < Config.panMin ∨ Config.panMax < pl.toNat then .error (.panSize pl)
  else .ok (List.replicate 4 charZero ++ (pan.toList.drop (pl.toNat - 13)).take 12)

/-- `nib(c)`, none for a byte that is no hexadecimal digit; both cases of letters count (R144). -/
def nib (c : Byte) : Option (BitVec 4) :=
  if 0x30 ≤ c.toNat ∧ c.toNat ≤ 0x39 then some (BitVec.ofNat 4 (c.toNat - 0x30))
  else if 0x41 ≤ c.toNat ∧ c.toNat ≤ 0x46 then some (BitVec.ofNat 4 (c.toNat - 0x41 + 10))
  else if 0x61 ≤ c.toNat ∧ c.toNat ≤ 0x66 then some (BitVec.ofNat 4 (c.toNat - 0x61 + 10))
  else none

/-- `pack(s, fid)`: each two characters into one byte, the first the high nibble; an odd length and
a character that is no hexadecimal digit give the same error (R145). -/
def pack (field : FieldId) : List Byte → Except CmdError (List Byte)
  | [] => .ok []
  | [_] => .error (.hexDecode field)
  | a :: b :: rest =>
    match nib a, nib b with
    | some h, some l =>
      match pack field rest with
      | .ok bs => .ok ((h ++ l) :: bs)
      | .error e => .error e
    | _, _ => .error (.hexDecode field)

/-- PADPIN (R141). -/
def execPadpin (s : State) : Result :=
  .next (s.complete (padPin s.snapshot.format s.snapshot.pin s.snapshot.pinlen)
    State.putFielda State.clearFielda)

/-- SHIFTPAN (R143). -/
def execShiftpan (s : State) : Result :=
  .next (s.complete (shiftPan s.snapshot.format s.snapshot.pan s.snapshot.panlen)
    State.putFieldb State.clearFieldb)

end Sys2Proof.Machine
end

