-- ==== Sys2Proof/Machine/Mask.lean ====
section
/-! DEFINITION. The XOR masking datapath and MASK (43_mask R160-R162). -/

namespace Sys2Proof.Machine

/-- `xorBuffers(a, b)`: the lengths must agree (R160). -/
def xorBuffers (a b : List Byte) : Except CmdError (List Byte) :=
  if a.length ≠ b.length then .error (.lengthMismatch a.length b.length)
  else .ok (List.zipWith (· ^^^ ·) a b)

/-- The first operand of MASK (R161, 30_encoding R82). -/
def State.maskOperand (s : State) : Src → Except CmdError (List Byte)
  | .input => pack .paddedPin s.fieldaChars
  | .blkout => .ok s.blkoutBytes

/-- The byte string MASK computes, or its error (R161). -/
def maskResult (s : State) (src : Src) : Except CmdError (List Byte) := do
  let a ← s.maskOperand src
  let b ← pack .shiftedPan s.fieldbChars
  xorBuffers a b

/-- MASK (R161). -/
def execMask (src : Src) (s : State) : Result :=
  .next (s.complete (maskResult s src) State.putBlkout State.clearBlkout)

end Sys2Proof.Machine
end

