-- ==== Sys2Proof/Machine/Pipelines.lean ====
section
/-! DEFINITION. The two pipelines ENCODE and DECODE (45_pipelines R190-R197). They read the input
snapshot alone and expand the key into a private value (R197). -/

namespace Sys2Proof.Machine

/-- The 8 bytes ENCODE computes, or the first failing check (R190, R191). -/
def encodeResult (x : Inputs) : Except CmdError (List Byte) := do
  let key ← expandKey x.key x.keylen
  let pf ← padPin x.format x.pin x.pinlen
  raiseIf (x.format != 0 && x.format != 3) (.isoFormat x.format)
  let sf ← shiftPan x.format x.pan x.panlen
  let a ← pack .paddedPin pf
  let b ← pack .shiftedPan sf
  let c ← xorBuffers a b
  return bytesOfBlock (tdesE key (blockOfBytes c))

/-- The characters DECODE computes, or the first failing check (R192, R193). The decryption comes
before the format check and has "no visible effect on an error path". -/
def decodeResult (x : Inputs) : Except CmdError (List Byte) := do
  let key ← expandKey x.key x.keylen
  let d := bytesOfBlock (tdesD key (blockOfBytes x.blkin.toList))
  raiseIf (x.format != 0 && x.format != 1) (.isoFormat x.format)
  let sf ← shiftPan x.format x.pan x.panlen
  let b ← pack .shiftedPan sf
  let c ← xorBuffers d b
  let len := bcdToDecimal (c.take 1)
  raiseIf (x.format == 0 && decide (Config.decodeLenLimit < len)) (.isoFormat 0)
  bcdToAscii (c.drop 1) len

/-- ENCODE (R190). -/
def execEncode (s : State) : Result :=
  .next (s.complete (encodeResult s.snapshot) State.putBlkout State.clearBlkout)

/-- DECODE (R192). -/
def execDecode (s : State) : Result :=
  .next (s.complete (decodeResult s.snapshot) State.putPinout State.clearPinout)

end Sys2Proof.Machine
end

