-- ==== Sys2Proof/Machine/Dispatch.lean ====
section
/-! DEFINITION. The meaning of every command at its completion step (60_exceptions R212). -/

namespace Sys2Proof.Machine

def exec (i : Instr) (s : State) : Host.Outcome State Fault Refusal :=
  match i with
  | .expand => Sys2Proof.Machine.execExpand s
  | .padpin => Sys2Proof.Machine.execPadpin s
  | .shiftpan => Sys2Proof.Machine.execShiftpan s
  | .mask src => Sys2Proof.Machine.execMask src s
  | .encrypt src => Sys2Proof.Machine.execEncrypt src s
  | .decrypt src => Sys2Proof.Machine.execDecrypt src s
  | .bcd2dec n => Sys2Proof.Machine.execBcd2dec n s
  | .bcd2ascii off d => Sys2Proof.Machine.execBcd2ascii off d s
  | .encode => Sys2Proof.Machine.execEncode s
  | .decode => Sys2Proof.Machine.execDecode s

end Sys2Proof.Machine
end

