-- ==== Sys2Proof/Machine/HostPort.lean ====
section
/-! DEFINITION. The host's step: reads, writes, `poll` and reset at the bus port (20_memory R60-R68,
30_encoding R88, 60_exceptions R229). -/

namespace Sys2Proof.Machine

/-- The offset inside the window an access goes to, none where the block does not decode it
(20_memory R60, R62; log entries 4, 5). -/
def BusAddr.offset : BusAddr → Option Nat
  | .window off => if off < Config.windowBytes then some off else none
  | .bus addr =>
    if Config.base ≤ addr ∧ addr < Config.base + Config.windowBytes then some (addr - Config.base)
    else none

/-- A host access: refused outside the window, a bus error unless it is a 32-bit access at a
4-byte-aligned offset, else `act` at that offset (20_memory R62, 60_exceptions R220). -/
def State.access (at_ : BusAddr) (width : Nat) (act : Nat → State) : Result :=
  match at_.offset with
  | none => .refused (.outsideWindow at_)
  | some off => if width = 4 ∧ off % 4 = 0 then .next (act off) else .fault (.busError off width)

/-- The host performs one statement; it is no longer pending, but for a `poll` that reads BUSY = 1
(30_encoding R88), and that records nothing for it (log entry 12). -/
def State.hostOp (s : State) : HostOp → Result
  | .rd at_ width => State.access at_ width fun off => { s with reads := s.readWindow off :: s.reads }
  | .wr at_ width v => State.access at_ width fun off => s.writeWindow off v
  | .poll => .next { s with reads := s.readWindow 0x004 :: s.reads }
  | .assertReset => .next s.resetBlock

/-- The host's step: its next statement, if it has one (10_state R20). -/
def State.hostStep (s : State) : Result :=
  match s.hostOps with
  | [] => .next s
  | .poll :: rest => if s.status.busy then .next s else { s with hostOps := rest }.hostOp .poll
  | op :: rest => { s with hostOps := rest }.hostOp op

/-- One host step passes while a command is in flight (R212; log entry 2). -/
def State.tick (s : State) (p : Pending) : State :=
  { s with latch := some { p with wait := p.wait - 1 } }

/-- The completion of an illegal word: IllegalCommandError, no destination (30_encoding R87). -/
def State.rejectWord (s : State) (w : Word) : State := s.fail (.illegalCommand w)

end Sys2Proof.Machine
end

