-- ==== Sys2Proof/Machine/Step.lean ====
section
/-! DEFINITION. One step of the machine: the engine's completion step when the latch is full and its
host steps have passed, else a step of the host (10_state R20, 60_exceptions R212). -/

namespace Sys2Proof.Machine

/-- The completion step of the word in the latch: the command it decodes to, or the rejection of an
illegal word (60_exceptions R212, 30_encoding R87). -/
def engineStep (s : State) (p : Pending) : Host.Outcome State Fault Refusal :=
  match Sys2Proof.decode p.word with
  | .ok i => exec i s
  | .error _ => .next (s.rejectWord p.word)

/-- One step. -/
def step (s : State) : Host.Outcome State Fault Refusal :=
  match s.latch with
  | none => s.hostStep
  | some p => if p.wait = 0 then engineStep s p else (s.tick p).hostStep

/-- `s` at the completion step of the command word `w`: an accepted CMD write of the word whose host
steps have all passed (log entry 11). -/
def State.withFetchWord (s : State) (nbits w : Nat) : State := s.issue (tableWord nbits w) 0

end Sys2Proof.Machine
end

