-- ==== Sys2Proof/Machine/Assembler.lean ====
section
/-! DEFINITION. The host's statements written with mnemonics: the pseudo-instructions of
30_encoding R89-R91 as lists of host statements. The hex text of `ld.key` and `ld.blk` is given as
the bytes it names (00_scope R5, decision D2). -/

namespace Sys2Proof.Machine

/-- `wr OFF, VAL` (30_encoding R88). -/
def stmtWr (off : Nat) (v : Word) : HostOp := .wr (.window off) 4 v

/-- `rd OFF` (30_encoding R88). -/
def stmtRd (off : Nat) : HostOp := .rd (.window off) 4

/-- A command mnemonic alone: `wr 0x000, <its word>` (30_encoding R89). -/
def stmtCmd (i : Instr) : HostOp := stmtWr 0x000 (Sys2Proof.encode i)

/-- `run X`: the command statement, then `poll` (30_encoding R90). -/
def stmtRun (i : Instr) : List HostOp := [stmtCmd i, .poll]

/-- The bus words of a byte string, the last one zero-padded (30_encoding R91, 20_memory R61). -/
def wordsOf : List Byte → List Word
  | [] => []
  | [a] => [wordOfBytes a 0 0 0]
  | [a, b] => [wordOfBytes a b 0 0]
  | [a, b, c] => [wordOfBytes a b c 0]
  | a :: b :: c :: d :: rest => wordOfBytes a b c d :: wordsOf rest

/-- Writes of consecutive words from offset `off`. -/
def storeWords (off : Nat) : List Word → List HostOp
  | [] => []
  | w :: ws => stmtWr off w :: storeWords (off + 4) ws

/-- A length write and the words of an operand of at most `cap` bytes; "a longer operand is an
assembly error" (30_encoding R91). -/
def loadString (lenOff off cap : Nat) (bs : List Byte) : Option (List HostOp) :=
  if bs.length ≤ cap then
    some (stmtWr lenOff (BitVec.ofNat 32 bs.length) :: storeWords off (wordsOf bs))
  else none

/-- `ld.fmt f` (30_encoding R91). -/
def stmtLdFmt (f : Word) : List HostOp := [stmtWr 0x00C f]

/-- `ld.key` (30_encoding R91). -/
def stmtLdKey (key : List Byte) : Option (List HostOp) := loadString 0x010 0x020 24 key

/-- `ld.pin` (30_encoding R91). -/
def stmtLdPin (pin : List Byte) : Option (List HostOp) := loadString 0x014 0x040 16 pin

/-- `ld.pan` (30_encoding R91). -/
def stmtLdPan (pan : List Byte) : Option (List HostOp) := loadString 0x018 0x050 24 pan

/-- `ld.blk`: exactly 8 bytes (30_encoding R91). -/
def stmtLdBlk (blk : List Byte) : Option (List HostOp) :=
  if blk.length = 8 then some (storeWords 0x068 (wordsOf blk)) else none

end Sys2Proof.Machine
end

