-- ==== Sys2Proof/Safety.lean ====
section
/-! DEFINITION. What counts as a safe run of PINBLK-CORE, in the terms the claims use: whose turn a
step is, a host that keeps to the bus rules, the destinations of a command (60_exceptions R213), the
outcome of a failed command, and the invariants of the register file. -/

namespace Sys2Proof.Machine

/-! ### Turns -/

/-- The next step is the host's: no command is in flight, or host steps are left before its
completion (60_exceptions R212). -/
def State.hostTurn (s : State) : Prop := ∀ p, s.latch = some p → p.wait ≠ 0

/-- The next step is the completion step of `p` (60_exceptions R212). -/
def State.engineTurn (s : State) (p : Pending) : Prop := s.latch = some p ∧ p.wait = 0

/-- `s` after one host step has passed for a command in flight, with `rest` still to perform. -/
def State.passed (s : State) (rest : List HostOp) : State :=
  { s with hostOps := rest, latch := s.latch.map fun p => { p with wait := p.wait - 1 } }

/-- Issue and completion of a command with no host step between them (60_exceptions R212). -/
def State.runCommand (s : State) (i : Instr) : Result := exec i (s.issue (Sys2Proof.encode i) 0)

/-! ### The host -/

/-- A statement that keeps the bus rules: an access is 32 bits wide at an aligned offset of the
window (20_memory R62). -/
def HostOp.legal : HostOp → Prop
  | .rd at_ width => ∃ off, at_.offset = some off ∧ off % 4 = 0 ∧ width = 4
  | .wr at_ width _ => ∃ off, at_.offset = some off ∧ off % 4 = 0 ∧ width = 4
  | .poll => True
  | .assertReset => True

/-- The statement is an accepted or discarded CMD write of `w` (10_state R22). -/
def HostOp.writesCmd (op : HostOp) (w : Word) : Prop :=
  ∃ at_, op = .wr at_ 4 w ∧ at_.offset = some 0

/-- "A run's end state": no statement left and no command in flight (70_reset_and_hazards R249). -/
def State.finished (s : State) : Prop := s.hostOps = [] ∧ s.status.busy = false

/-! ### Destinations -/

/-- A group of registers one command writes (60_exceptions R213). -/
inductive Dest where
  /-- KX and STATUS.KEYVALID. -/
  | key
  /-- FIELDA and FIELDA_LEN. -/
  | fielda
  /-- FIELDB and FIELDB_LEN. -/
  | fieldb
  /-- BLKOUT and OUTLEN. -/
  | blkout
  /-- ACC. -/
  | acc
  /-- PINOUT and PINOUT_LEN. -/
  | pinout
  deriving DecidableEq, Repr

/-- "The destinations, per command" (60_exceptions R213, 70_reset_and_hazards R247). -/
def destOf : Instr → Dest
  | .expand => .key
  | .padpin => .fielda
  | .shiftpan => .fieldb
  | .mask _ => .blkout
  | .encrypt _ => .blkout
  | .decrypt _ => .blkout
  | .encode => .blkout
  | .bcd2dec _ => .acc
  | .bcd2ascii _ _ => .pinout
  | .decode => .pinout

/-- The destination registers set to their cleared values (60_exceptions R213). -/
def State.cleared (s : State) : Dest → State
  | .key => { s with kx := Vector.replicate 24 0, status := { s.status with keyvalid := false } }
  | .fielda => { s with fielda := Vector.replicate 16 0, fieldaLen := 0 }
  | .fieldb => { s with fieldb := Vector.replicate 16 0, fieldbLen := 0 }
  | .blkout => { s with blkout := Vector.replicate 8 0, outlen := 0 }
  | .acc => { s with acc := 0 }
  | .pinout => { s with pinout := Vector.replicate 16 0, pinoutLen := 0 }

/-- `s` after an error outcome: destinations `d` cleared, ERR set, ERRCODE and ERRINFO as given, the
block idle, and nothing else changed (60_exceptions R212, R213). -/
def State.failedWith (s : State) (d : Dest) (code : BitVec 8) (info : Word) : State :=
  { s.cleared d with
    status := { (s.cleared d).status with busy := false, done := true, err := true, errcode := code },
    errinfo := info, latch := none }

/-- The flags and ERRINFO of `t` are those of a success from `s`; KEYVALID is not constrained
(60_exceptions R212, R214). -/
structure State.SucceededFrom (s t : State) : Prop where
  busy : t.status.busy = false
  done : t.status.done = true
  err : t.status.err = false
  errcode : t.status.errcode = 0
  errinfo : t.errinfo = 0
  ovr : t.status.ovr = s.status.ovr
  latch : t.latch = none

/-- Every register but STATUS, ERRINFO, the latch and the destinations `d` is as it was. -/
structure State.SameBut (d : Dest) (s t : State) : Prop where
  cmd : t.cmd = s.cmd
  inputs : t.inputs = s.inputs
  ovr : t.status.ovr = s.status.ovr
  hostOps : t.hostOps = s.hostOps
  reads : t.reads = s.reads
  draws : t.draws = s.draws
  key : d ≠ .key → t.kx = s.kx ∧ t.status.keyvalid = s.status.keyvalid
  fielda : d ≠ .fielda → t.fielda = s.fielda ∧ t.fieldaLen = s.fieldaLen
  fieldb : d ≠ .fieldb → t.fieldb = s.fieldb ∧ t.fieldbLen = s.fieldbLen
  blkout : d ≠ .blkout → t.blkout = s.blkout ∧ t.outlen = s.outlen
  acc : d ≠ .acc → t.acc = s.acc
  pinout : d ≠ .pinout → t.pinout = s.pinout ∧ t.pinoutLen = s.pinoutLen

/-! ### Characters -/

/-- A hexadecimal digit of either case (42_format_encoder R144). -/
def isHexChar (c : Byte) : Bool :=
  (0x30 ≤ c.toNat && c.toNat ≤ 0x39) || (0x41 ≤ c.toNat && c.toNat ≤ 0x46) ||
    (0x61 ≤ c.toNat && c.toNat ≤ 0x66)

/-- A decimal digit (00_scope R7). -/
def isDecimalChar (c : Byte) : Bool := 0x30 ≤ c.toNat && c.toNat ≤ 0x39

/-- A character PINOUT can hold: `'0'..'9'` or `'A'..'F'` (10_state R46). -/
def isPinoutChar (c : Byte) : Bool :=
  (0x30 ≤ c.toNat && c.toNat ≤ 0x39) || (0x41 ≤ c.toNat && c.toNat ≤ 0x46)

/-! ### Invariants -/

/-- Index `i` on is 0 in every element from `n` up. -/
def tailClear {k : Nat} (v : Vector Byte k) (n : Nat) : Prop :=
  ∀ i, ∀ h : i < k, n ≤ i → v[i] = 0

/-- What the rules say always holds of the registers. -/
structure State.Inv (s : State) : Prop where
  /-- BUSY is 1 exactly while the latch is full (10_state R23, R48). -/
  busy_latch : s.status.busy = s.latch.isSome
  /-- While a command is in flight DONE, ERR, ERRCODE and ERRINFO are clear (60_exceptions R212). -/
  busy_clear : s.status.busy = true →
    s.status.done = false ∧ s.status.err = false ∧ s.status.errcode = 0 ∧ s.errinfo = 0
  /-- ERR is 1 exactly when ERRCODE names an error (10_state R25, R28). -/
  err_code : s.status.err = true ↔ s.status.errcode ≠ 0
  /-- "Codes 10-255 are never produced" (60_exceptions R211). -/
  code_range : s.status.errcode.toNat ≤ 9
  /-- ERRINFO is 0 after a successful command (10_state R29). -/
  info_clear : s.status.err = false → s.errinfo = 0
  /-- Without KEYVALID, KX is 0 (10_state R47, 60_exceptions R213). -/
  key_clear : s.status.keyvalid = false → s.kx = Vector.replicate 24 0
  /-- "Only the values 0 and 8 are reachable" (10_state R34). -/
  outlen : s.outlen = 0 ∨ s.outlen = 8
  /-- FIELDA_LEN is 16, 2 + PINLEN, or 0 (10_state R43). -/
  fieldaLen : s.fieldaLen = 0 ∨ s.fieldaLen = 16 ∨
    (3 ≤ s.fieldaLen.toNat ∧ s.fieldaLen.toNat ≤ 11)
  /-- FIELDB_LEN is 0 or 16 (10_state R44). -/
  fieldbLen : s.fieldbLen = 0 ∨ s.fieldbLen = 16
  /-- PINOUT_LEN is 0..16 (10_state R45). -/
  pinoutLen : s.pinoutLen.toNat ≤ 16
  /-- BLKOUT[OUTLEN..7] are 0 (10_state R39). -/
  blkout_tail : tailClear s.blkout s.outlen.toNat
  /-- FIELDA is 0 from FIELDA_LEN up (10_state R41). -/
  fielda_tail : tailClear s.fielda s.fieldaLen.toNat
  /-- FIELDB is 0 from FIELDB_LEN up (10_state R42). -/
  fieldb_tail : tailClear s.fieldb s.fieldbLen.toNat
  /-- PINOUT is 0 from PINOUT_LEN up (10_state R46). -/
  pinout_tail : tailClear s.pinout s.pinoutLen.toNat
  /-- PINOUT holds the characters of R172 (10_state R46). -/
  pinout_chars : ∀ i, ∀ h : i < 16, i < s.pinoutLen.toNat → isPinoutChar s.pinout[i] = true
  /-- ACC "never exceeds 16666666666666665" (10_state R40). -/
  acc_bound : s.acc.toNat ≤ 16666666666666665

end Sys2Proof.Machine
end

