-- ==== Sys2Proof/Certificates/Slice0/Obligations.lean ====
section
/-! DEFINITION. The statements about PINBLK-CORE for the provers, in the order of the spec's files:
encoding, the host's port, issue and completion, the datapath of each command, the pipelines, and the
invariants. In a statement about `exec`, `s` is the state at the completion step and `s.snapshot` the
input registers the latch holds (10_state R48). -/

open Sys2Proof Sys2Proof.Machine

/-! ### Encoding -/

/-- Decoding and encoding agree, both ways: a word decodes to `i` exactly when `i` is well-formed and
the word is the one 30_encoding R89 gives for it, with every operand at every legal value. -/
def Obligations.DecodeIffEncode : Prop :=
  ∀ (w : Word) (i : Instr),
    decode w = .ok i ↔ i.wellFormed = true ∧ w = encode i

/-- 30_encoding R86: the ten rows of the opcode map by match and mask, with the fields each uses and
the range conditions of R83 and R84. -/
def Obligations.OpcodeMapRows : Prop :=
  ∀ w : Word,
    (decode w = .ok .expand ↔ w &&& 0xFFFFFFFF#32 = 0x00000001#32) ∧
    (decode w = .ok .padpin ↔ w &&& 0xFFFFFFFF#32 = 0x00000002#32) ∧
    (decode w = .ok .shiftpan ↔ w &&& 0xFFFFFFFF#32 = 0x00000003#32) ∧
    (∀ src, decode w = .ok (.mask src) ↔
      w &&& 0xFFFFFEFF#32 = 0x00000004#32 ∧ (w.getLsbD 8 = true ↔ src = .blkout)) ∧
    (∀ src, decode w = .ok (.encrypt src) ↔
      w &&& 0xFFFFFEFF#32 = 0x00000005#32 ∧ (w.getLsbD 8 = true ↔ src = .blkout)) ∧
    (∀ src, decode w = .ok (.decrypt src) ↔
      w &&& 0xFFFFFEFF#32 = 0x00000006#32 ∧ (w.getLsbD 8 = true ↔ src = .blkout)) ∧
    (∀ n : BitVec 4, decode w = .ok (.bcd2dec n) ↔
      w &&& 0xFFF0FFFF#32 = 0x00000007#32 ∧ w.extractLsb' 16 4 = n ∧ n.toNat ≤ 8) ∧
    (∀ (off : BitVec 4) (d : BitVec 5), decode w = .ok (.bcd2ascii off d) ↔
      w &&& 0xFE00FFFF#32 = 0x00000008#32 ∧ w.extractLsb' 16 4 = off ∧ off.toNat ≤ 7 ∧
        w.extractLsb' 20 5 = d ∧ d.toNat ≤ 16) ∧
    (decode w = .ok .encode ↔ w &&& 0xFFFFFFFF#32 = 0x00000010#32) ∧
    (decode w = .ok .decode ↔ w &&& 0xFFFFFFFF#32 = 0x00000011#32)

/-- The words of 30_encoding's encoding examples, legal and illegal. -/
def Obligations.WrittenOutWordsDecode : Prop :=
  decode 0x00000001#32 = .ok .expand ∧ decode 0x00000002#32 = .ok .padpin ∧
  decode 0x00000003#32 = .ok .shiftpan ∧
  decode 0x00000004#32 = .ok (.mask .input) ∧ decode 0x00000104#32 = .ok (.mask .blkout) ∧
  decode 0x00000005#32 = .ok (.encrypt .input) ∧ decode 0x00000105#32 = .ok (.encrypt .blkout) ∧
  decode 0x00000006#32 = .ok (.decrypt .input) ∧ decode 0x00000106#32 = .ok (.decrypt .blkout) ∧
  decode 0x00010007#32 = .ok (.bcd2dec 1) ∧ decode 0x00080007#32 = .ok (.bcd2dec 8) ∧
  decode 0x00410008#32 = .ok (.bcd2ascii 1 4) ∧ decode 0x01000008#32 = .ok (.bcd2ascii 0 16) ∧
  decode 0x00000010#32 = .ok .encode ∧ decode 0x00000011#32 = .ok .decode ∧
  decode 0x00000000#32 = .error .unknownOp ∧ decode 0x00000009#32 = .error .unknownOp ∧
  decode 0x00000101#32 = .error .unusedField ∧ decode 0x00090007#32 = .error .byteFieldRange ∧
  decode 0x01100008#32 = .error .digitFieldRange ∧ decode 0x00000210#32 = .error .reservedBit

/-- 30_encoding R87: which words are illegal, and that an accepted illegal word completes with
IllegalCommandError, ERRINFO = the word, changing no register other than STATUS and ERRINFO at its
completion (CMD took the word at the accepted write). -/
def Obligations.IllegalWordsAndTheirOutcome : Prop :=
  (∀ w : Word,
    (w.extractLsb' 0 8 = 0#8 ∨ (0x09#8 ≤ w.extractLsb' 0 8 ∧ w.extractLsb' 0 8 ≤ 0x0F#8) ∨
      0x12#8 ≤ w.extractLsb' 0 8 ∨ w.extractLsb' 9 7 ≠ 0 ∨ w.extractLsb' 25 7 ≠ 0 ∨
      (w.getLsbD 8 = true ∧ ¬ (4#8 ≤ w.extractLsb' 0 8 ∧ w.extractLsb' 0 8 ≤ 6#8)) ∨
      (w.extractLsb' 16 4 ≠ 0 ∧ w.extractLsb' 0 8 ≠ 7#8 ∧ w.extractLsb' 0 8 ≠ 8#8) ∨
      (w.extractLsb' 20 5 ≠ 0 ∧ w.extractLsb' 0 8 ≠ 8#8) ∨
      (w.extractLsb' 0 8 = 7#8 ∧ 9#4 ≤ w.extractLsb' 16 4) ∨
      (w.extractLsb' 0 8 = 8#8 ∧ 8#4 ≤ w.extractLsb' 16 4) ∨
      (w.extractLsb' 0 8 = 8#8 ∧ 17#5 ≤ w.extractLsb' 20 5)) ↔
    ∃ r, decode w = .error r) ∧
  (∀ (s : State) (p : Pending) (r : DecodeError),
    s.engineTurn p → decode p.word = .error r →
    step s = .next { s with
      status := { s.status with busy := false, done := true, err := true, errcode := 9 },
      errinfo := p.word, latch := none })

/-! ### The register window and the host's port -/

/-- 20_memory R61: little-endian lanes. A bus word stored to a byte-array register puts bits
[8k+7:8k] into element k of the word and leaves the other elements alone, a read assembles the word
the same way, and the rule's example: "5810" is 0x30313835. -/
def Obligations.LittleEndianLanes : Prop :=
  (∀ (s : State) (v : Word) (j k : Nat), k < 4 →
    (∀ h : 4 * j + k < 24, (s.writeWindow (0x020 + 4 * j) v).inputs.key[4 * j + k] =
      v.extractLsb' (8 * k) 8) ∧
    (∀ h : 4 * j + k < 16, (s.writeWindow (0x040 + 4 * j) v).inputs.pin[4 * j + k] =
      v.extractLsb' (8 * k) 8) ∧
    (∀ h : 4 * j + k < 24, (s.writeWindow (0x050 + 4 * j) v).inputs.pan[4 * j + k] =
      v.extractLsb' (8 * k) 8) ∧
    (∀ h : 4 * j + k < 8, (s.writeWindow (0x068 + 4 * j) v).inputs.blkin[4 * j + k] =
      v.extractLsb' (8 * k) 8)) ∧
  (∀ (s : State) (v : Word) (j i : Nat), i / 4 ≠ j →
    (∀ h : i < 24, 4 * j < 24 → (s.writeWindow (0x020 + 4 * j) v).inputs.key[i] = s.inputs.key[i]) ∧
    (∀ h : i < 16, 4 * j < 16 → (s.writeWindow (0x040 + 4 * j) v).inputs.pin[i] = s.inputs.pin[i]) ∧
    (∀ h : i < 24, 4 * j < 24 → (s.writeWindow (0x050 + 4 * j) v).inputs.pan[i] = s.inputs.pan[i]) ∧
    (∀ h : i < 8, 4 * j < 8 →
      (s.writeWindow (0x068 + 4 * j) v).inputs.blkin[i] = s.inputs.blkin[i])) ∧
  (∀ (s : State) (j k : Nat), k < 4 →
    (∀ h : 4 * j + k < 16,
      (s.readWindow (0x040 + 4 * j)).extractLsb' (8 * k) 8 = s.inputs.pin[4 * j + k]) ∧
    (∀ h : 4 * j + k < 24,
      (s.readWindow (0x050 + 4 * j)).extractLsb' (8 * k) 8 = s.inputs.pan[4 * j + k]) ∧
    (∀ h : 4 * j + k < 8,
      (s.readWindow (0x068 + 4 * j)).extractLsb' (8 * k) 8 = s.inputs.blkin[4 * j + k]) ∧
    (∀ h : 4 * j + k < 8,
      (s.readWindow (0x070 + 4 * j)).extractLsb' (8 * k) 8 = s.blkout[4 * j + k]) ∧
    (∀ h : 4 * j + k < 16,
      (s.readWindow (0x080 + 4 * j)).extractLsb' (8 * k) 8 = s.fielda[4 * j + k]) ∧
    (∀ h : 4 * j + k < 16,
      (s.readWindow (0x090 + 4 * j)).extractLsb' (8 * k) 8 = s.fieldb[4 * j + k]) ∧
    (∀ h : 4 * j + k < 16,
      (s.readWindow (0x0B0 + 4 * j)).extractLsb' (8 * k) 8 = s.pinout[4 * j + k])) ∧
  (∀ s : State, let t := s.writeWindow 0x040 0x30313835#32
    t.inputs.pin[0] = 0x35#8 ∧ t.inputs.pin[1] = 0x38#8 ∧ t.inputs.pin[2] = 0x31#8 ∧
      t.inputs.pin[3] = 0x30#8)

/-- The access kinds of 10_state R21, and that a write reaches no other word: RW registers read back
what was written, truncated to their width; KEY and reserved offsets read 0; RO and reserved offsets
ignore writes; every other word reads as before, and the contents of KEY, which no read shows, are
unchanged unless the write goes to KEY. The CMD write is stated apart. -/
def Obligations.WindowAccessKinds : Prop :=
  ∀ (s : State) (off : Nat) (v : Word), off % 4 = 0 → 0 < off → off < 0x100 →
    let t := s.writeWindow off v
    ((off = 0x010 ∨ off = 0x014 ∨ off = 0x018 ∨ (0x040 ≤ off ∧ off < 0x070)) →
      t.readWindow off = v) ∧
    (off = 0x00C → t.readWindow off = v &&& 0x000000FF#32) ∧
    (((0x020 ≤ off ∧ off < 0x040) ∨ off = 0x0AC ∨ 0x0C0 ≤ off) →
      s.readWindow off = 0 ∧ t.readWindow off = 0) ∧
    ((off = 0x004 ∨ off = 0x008 ∨ off = 0x01C ∨ (0x038 ≤ off ∧ off < 0x040) ∨
      0x070 ≤ off) → t = s) ∧
    (∀ off', off' % 4 = 0 → off' < 0x100 → off' ≠ off → t.readWindow off' = s.readWindow off') ∧
    (¬ (0x020 ≤ off ∧ off < 0x038) → t.inputs.key = s.inputs.key)

/-- The word registers of the map of 10_state R21, with the bits that read 0. -/
def Obligations.RegisterMapReads : Prop :=
  ∀ s : State,
    s.readWindow 0x000 = s.cmd ∧
    (s.readWindow 0x004).toNat =
      s.status.busy.toNat + 2 * s.status.done.toNat + 4 * s.status.err.toNat +
        8 * s.status.keyvalid.toNat + 16 * s.status.ovr.toNat + 256 * s.status.errcode.toNat ∧
    s.readWindow 0x008 = s.errinfo ∧
    (s.readWindow 0x00C).toNat = s.inputs.format.toNat ∧
    s.readWindow 0x010 = s.inputs.keylen ∧ s.readWindow 0x014 = s.inputs.pinlen ∧
    s.readWindow 0x018 = s.inputs.panlen ∧
    (s.readWindow 0x01C).toNat = s.outlen.toNat ∧
    (s.readWindow 0x078).toNat + 2 ^ 32 * (s.readWindow 0x07C).toNat = s.acc.toNat ∧
    (s.readWindow 0x0A0).toNat = s.fieldaLen.toNat ∧
    (s.readWindow 0x0A4).toNat = s.fieldbLen.toNat ∧
    (s.readWindow 0x0A8).toNat = s.pinoutLen.toNat

/-- "KEY and KX cannot be read" (60_exceptions R221): what any host read returns is the same whatever
KEY, KX and the latch hold. -/
def Obligations.KeyMaterialUnreadable : Prop :=
  ∀ (s : State) (key : Vector Byte 24) (kx : Vector Byte 24) (l : Option Pending) (off : Nat),
    State.readWindow { s with inputs := { s.inputs with key := key }, kx := kx, latch := l } off =
      s.readWindow off

/-- 20_memory R62: on the host's turn, an access inside the window that is not 32 bits wide at a
4-byte-aligned offset ends in `BusError(off, width)`, and one outside it is not decoded: the model
refuses it. Whether an undecoded access can also be a bus error is the model's reading (log entry 5).
A fault and a refusal carry no next state: nothing changes. -/
def Obligations.BusErrorExactlyWhenUnalignedOrNarrow : Prop :=
  ∀ (s : State) (at_ : BusAddr) (width : Nat) (rest : List HostOp) (op : HostOp),
    s.hostTurn → s.hostOps = op :: rest → (op = .rd at_ width ∨ ∃ v, op = .wr at_ width v) →
    (∀ off, at_.offset = some off →
      (step s = .fault (.busError off width) ↔ ¬ (width = 4 ∧ off % 4 = 0))) ∧
    (at_.offset = none → step s = .refused (.outsideWindow at_))

/-- "Reads have no side effects on any register" (20_memory R63), the reads a `poll` makes included
(30_encoding R88): a legal host read changes nothing but the host's own lists and, with a command in
flight, the host steps left before its completion; a `poll` that meets BUSY = 0 records STATUS so, and
one that meets BUSY = 1 stays pending and records nothing. What a `poll` leaves in `reads` is the
model's choice, not R88's, whose loop is made of `rd` statements that each record their value: only
its final STATUS is recorded, the BUSY = 1 reads are not (log entry 12, DESIGN CHOICE). -/
def Obligations.ReadOnlyRecordsItsValue : Prop :=
  (∀ (s : State) (at_ : BusAddr) (off : Nat) (rest : List HostOp),
    s.hostTurn → s.hostOps = .rd at_ 4 :: rest → at_.offset = some off → off % 4 = 0 →
    step s = .next { s.passed rest with reads := s.readWindow off :: s.reads }) ∧
  (∀ (s : State) (rest : List HostOp),
    s.hostTurn → s.hostOps = .poll :: rest → s.status.busy = false →
    step s = .next { s.passed rest with reads := s.readWindow 0x004 :: s.reads }) ∧
  (∀ (s : State) (rest : List HostOp),
    s.hostTurn → s.hostOps = .poll :: rest → s.status.busy = true →
    step s = .next (s.passed s.hostOps))

/-- "A write to an RW input register only stores the value" (20_memory R63), also while a command is
in flight, whose snapshot it does not touch (10_state R48): a legal host write at an offset other than
CMD changes nothing but the input registers. -/
def Obligations.WriteTouchesInputsOnly : Prop :=
  ∀ (s : State) (at_ : BusAddr) (off : Nat) (v : Word) (rest : List HostOp),
    s.hostTurn → s.hostOps = .wr at_ 4 v :: rest → at_.offset = some off → off % 4 = 0 → off ≠ 0 →
    step s = .next { s.passed rest with inputs := (s.writeWindow off v).inputs }

/-! ### Issue, overrun, completion, reset -/

/-- The issue step of 60_exceptions R212: an accepted CMD write, for some finite LATENCY. -/
def Obligations.AcceptedWriteIssues : Prop :=
  ∀ (s : State) (op : HostOp) (w : Word) (rest : List HostOp),
    s.latch = none → s.status.busy = false → s.hostOps = op :: rest → op.writesCmd w →
    ∃ latency draws, step s = .next { s with
      cmd := w,
      status := { s.status with busy := true, done := false, err := false, ovr := false, errcode := 0 },
      errinfo := 0,
      latch := some { word := w, snap := s.inputs, wait := latency },
      hostOps := rest, draws := draws }

/-- 10_state R22: CMD holds the last accepted command word. -/
def Obligations.CmdHoldsLastAcceptedWord : Prop :=
  (∀ (s : State) (op : HostOp) (w : Word) (rest : List HostOp),
    s.latch = none → s.status.busy = false → s.hostOps = op :: rest → op.writesCmd w →
    ∃ t p, step s = .next t ∧ t.cmd = w ∧ t.status.busy = true ∧ t.latch = some p ∧ p.word = w) ∧
  (∀ (s : State) (op : HostOp) (w : Word) (rest : List HostOp),
    s.hostTurn → s.status.busy = true → s.hostOps = op :: rest → op.writesCmd w →
    step s = .next { s.passed rest with status := { s.status with ovr := true } }) ∧
  (∀ s : State, s.readWindow 0x000 = s.cmd) ∧
  (∀ (s t : State), step s = .next t →
    t.cmd = s.cmd ∨ (s.hostTurn ∧ ∃ rest, s.hostOps = .assertReset :: rest) ∨
      (s.hostTurn ∧ ∃ op w rest,
        s.hostOps = op :: rest ∧ op.writesCmd w ∧ s.status.busy = false ∧ t.cmd = w)) ∧
  (∀ (s : State) (at_ : BusAddr) (rest : List HostOp),
    s.hostTurn → s.hostOps = .rd at_ 4 :: rest → at_.offset = some 0 →
    step s = .next { s.passed rest with reads := s.cmd :: s.reads }) ∧
  State.reset.cmd = 0 ∧ ∃ r, decode 0 = .error r

/-- 10_state R27: OVR is set by a CMD write while BUSY = 1, which does nothing else, and is sticky
until the next accepted CMD write (or reset) clears it. -/
def Obligations.OverrunIsSetAndSticky : Prop :=
  (∀ (s : State) (op : HostOp) (w : Word) (rest : List HostOp),
    s.hostTurn → s.status.busy = true → s.hostOps = op :: rest → op.writesCmd w →
    step s = .next { s.passed rest with status := { s.status with ovr := true } }) ∧
  (∀ (s t : State), step s = .next t → s.status.ovr = true →
    t.status.ovr = true ∨ (s.hostTurn ∧ ∃ rest, s.hostOps = .assertReset :: rest) ∨
      (s.hostTurn ∧ ∃ op w rest,
        s.hostOps = op :: rest ∧ op.writesCmd w ∧ s.status.busy = false)) ∧
  (∀ (s t : State), step s = .next t → s.status.ovr = false → t.status.ovr = true →
    s.hostTurn ∧ ∃ op w rest, s.hostOps = op :: rest ∧ op.writesCmd w ∧ s.status.busy = true) ∧
  (∀ (s : State) (op : HostOp) (w : Word) (rest : List HostOp),
    s.latch = none → s.status.busy = false → s.hostOps = op :: rest → op.writesCmd w →
    ∃ t, step s = .next t ∧ t.status.ovr = false) ∧
  State.reset.status.ovr = false

/-- A step at the completion point of a latched word runs exactly the command the word decodes to
(60_exceptions R212, the completion step). -/
def Obligations.StepRunsDecodedCommand : Prop :=
  ∀ (s : State) (p : Pending) (i : Instr),
    s.engineTurn p → decode p.word = .ok i → step s = exec i s

/-- The running command computes from its snapshot (10_state R48): whatever the live input registers
hold at its completion, it gives the same result and leaves them as they are. -/
def Obligations.RunningCommandSeesOnlyItsSnapshot : Prop :=
  ∀ (s : State) (p : Pending) (x : Inputs) (t : State),
    s.engineTurn p → step s = .next t → step { s with inputs := x } = .next { t with inputs := x }

/-- A host step leaves the accepted word and its snapshot in the latch (10_state R48, 60_exceptions
R219), DONE, ERR, ERRCODE and ERRINFO of a command in flight as the accepted CMD write left them, and
the results of the previous command in every output register and in KX (R212, "Output registers keep
their old values until the completion step"; 70_reset_and_hazards R243). That the accepted write puts
the reset value 0 into ERR, ERRCODE and ERRINFO is stated apart (log entry 17). -/
def Obligations.HostStepKeepsLatchAndResults : Prop :=
  ∀ (s t : State), s.hostTurn → step s = .next t → (∀ rest, s.hostOps ≠ .assertReset :: rest) →
    (∀ p, s.latch = some p → s.status.busy = true →
      t.latch = some { p with wait := p.wait - 1 } ∧ t.status.busy = true ∧ t.cmd = s.cmd ∧
      t.status.done = s.status.done ∧ t.status.err = s.status.err ∧
      t.status.errcode = s.status.errcode ∧ t.errinfo = s.errinfo) ∧
    t.blkout = s.blkout ∧ t.outlen = s.outlen ∧ t.acc = s.acc ∧
    t.fielda = s.fielda ∧ t.fieldaLen = s.fieldaLen ∧ t.fieldb = s.fieldb ∧
    t.fieldbLen = s.fieldbLen ∧ t.pinout = s.pinout ∧ t.pinoutLen = s.pinoutLen ∧
    t.kx = s.kx ∧ t.status.keyvalid = s.status.keyvalid

/-- 10_state R26: what changes KEYVALID (and with it KX), over every step of the machine, and that
ENCRYPT and DECRYPT read it. -/
def Obligations.KeyvalidOnlyByExpandAndReset : Prop :=
  (∀ (s t : State), exec .expand s = .next t → t.status.err = false →
    t.status.keyvalid = true ∧ expandKey s.snapshot.key s.snapshot.keylen = .ok t.kx) ∧
  (∀ (s t : State), exec .expand s = .next t → t.status.err = true →
    t.status.keyvalid = false ∧ t.kx = Vector.replicate 24 0) ∧
  (∀ (s : State) (rest : List HostOp), s.hostTurn → s.hostOps = .assertReset :: rest →
    ∃ t, step s = .next t ∧ t.status.keyvalid = false) ∧
  (∀ (s t : State), step s = .next t →
    (t.status.keyvalid = s.status.keyvalid ∧ t.kx = s.kx) ∨
    (s.hostTurn ∧ ∃ rest, s.hostOps = .assertReset :: rest) ∨
    ∃ p, s.engineTurn p ∧ decode p.word = .ok .expand) ∧
  (∀ (s : State) (src : Src), s.status.keyvalid = false →
    exec (.encrypt src) s = .next (s.failedWith .blkout 8 0) ∧
    exec (.decrypt src) s = .next (s.failedWith .blkout 8 0)) ∧
  State.reset.status.keyvalid = false

/-- 70_reset_and_hazards R240 and R241: asserting reset, a command in flight or not, leaves every
register reading 0, KX 0 and the latch empty, as `State.reset` is. -/
def Obligations.ResetClearsEverything : Prop :=
  (∀ (s : State) (rest : List HostOp), s.hostTurn → s.hostOps = .assertReset :: rest →
    ∃ t, step s = .next t ∧ (∀ off, t.readWindow off = 0) ∧
      t.status = { busy := false, done := false, err := false, keyvalid := false, ovr := false,
                   errcode := 0 } ∧
      t.inputs.key = Vector.replicate 24 0 ∧ t.kx = Vector.replicate 24 0 ∧ t.latch = none ∧
      t = { State.reset with hostOps := rest, reads := t.reads, draws := t.draws }) ∧
  (∀ off, State.reset.readWindow off = 0) ∧ State.reset.inputs.key = Vector.replicate 24 0 ∧
  State.reset.kx = Vector.replicate 24 0 ∧ State.reset.latch = none

/-- "Every command completes after finitely many steps" (70_reset_and_hazards R246): with a host that
keeps the bus rules and does not assert reset, the command in flight has completed after its LATENCY
host steps and one completion step, and CMD is still its word. -/
def Obligations.CommandCompletesWithinItsLatency : Prop :=
  ∀ (s : State) (p : Pending), s.latch = some p → s.status.busy = true →
    (∀ op ∈ s.hostOps, op.legal ∧ op ≠ .assertReset) →
    ∃ t : State, Host.Core.run core (p.wait + 1) s = .next t ∧
      t.latch = none ∧ t.status.busy = false ∧ t.status.done = true ∧ t.cmd = s.cmd

/-- `poll` (30_encoding R88) ends with the first STATUS value read with BUSY = 0: the host waits out
the command in flight, and that STATUS is the completed command's. That `reads` gains this one value
and none for the BUSY = 1 reads of the loop is the model's choice, not R88's (log entry 12, DESIGN
CHOICE). -/
def Obligations.PollReturnsTheCompletedStatus : Prop :=
  ∀ (s : State) (p : Pending) (rest : List HostOp), s.latch = some p → s.status.busy = true →
    s.hostOps = .poll :: rest →
    ∃ t : State, Host.Core.run core (p.wait + 2) s = .next t ∧ t.hostOps = rest ∧
      t.reads = t.status.toWord :: s.reads ∧ t.status.toWord.getLsbD 0 = false ∧
      t.status.done = true

/-- "The block never does the following: ... change state while idle" (60_exceptions R229): with no
command in flight and nothing for the host to do, a step changes nothing. -/
def Obligations.IdleBlockStaysAsItIs : Prop :=
  ∀ s : State, s.latch = none → s.hostOps = [] → step s = .next s

/-- A host that keeps the bus rules of 20_memory R62 never meets a fault or a refusal, in one step and
so in every run. -/
def Obligations.LegalHostNeverStops : Prop :=
  ∀ s : State, (∀ op ∈ s.hostOps, op.legal) →
    ∃ t, step s = .next t ∧ ∀ op ∈ t.hostOps, op.legal

/-! ### Outcomes -/

/-- 60_exceptions R210: every error is a command outcome, not a trap. Whatever the command and the
state, it completes; the block is idle and DONE, and ERR says whether ERRCODE names an error. -/
def Obligations.EveryCommandCompletes : Prop :=
  ∀ (i : Instr) (s : State), ∃ t, exec i s = .next t ∧
    t.status.busy = false ∧ t.status.done = true ∧ t.latch = none ∧
    (t.status.err = true ↔ t.status.errcode ≠ 0) ∧ t.status.errcode.toNat ≤ 8

/-- 60_exceptions R213: an error outcome clears the command's destinations, sets ERR, the code and
ERRINFO of one error of R211, and changes nothing else. An illegal word has no destinations. -/
def Obligations.FailureClearsDestinationsOnly : Prop :=
  (∀ (i : Instr) (s t : State), exec i s = .next t → t.status.err = true →
    ∃ e : CmdError, t = s.failedWith (destOf i) e.code e.info) ∧
  (∀ (s t : State) (p : Pending) (r : DecodeError),
    s.engineTurn p → decode p.word = .error r → step s = .next t →
    ∃ e : CmdError, t = { s with
      status := { s.status with busy := false, done := true, err := true, errcode := e.code },
      errinfo := e.info, latch := none })

/-- The success outcome of 60_exceptions R214: ERRCODE and ERRINFO are 0, and nothing changes but the
destinations. STATUS then reads 0x2 with KEYVALID in bit 3 and, as the model reads 10_state R27 (log
entry 9), OVR in bit 4. -/
def Obligations.SuccessChangesDestinationsOnly : Prop :=
  ∀ (i : Instr) (s t : State), exec i s = .next t → t.status.err = false →
    s.SucceededFrom t ∧ s.SameBut (destOf i) t ∧
    t.status.toWord.toNat = 2 + 8 * t.status.keyvalid.toNat + 16 * t.status.ovr.toNat

/-- 60_exceptions R211 and R216: the table of the error kinds. Each code comes only from the commands
the table names for it, with the ERRINFO value it gives (a length is the full 32-bit register value),
code 9 from an illegal word alone, and no other code is produced. -/
def Obligations.ErrorCodesAndValues : Prop :=
  (∀ (i : Instr) (s t : State), exec i s = .next t →
    let x := s.snapshot
    let fieldA := s.fielda.toList.take s.fieldaLen.toNat
    let fieldB := s.fieldb.toList.take s.fieldbLen.toNat
    let out := s.blkout.toList.take s.outlen.toNat
    t.status.errcode.toNat ≤ 8 ∧
    (t.status.err = true ↔ t.status.errcode ≠ 0) ∧
    (t.status.errcode = 0 → t.errinfo = 0) ∧
    (t.status.errcode = 1 → (i = .padpin ∨ i = .encode) ∧ t.errinfo = x.pinlen) ∧
    (t.status.errcode = 2 → (i = .padpin ∨ i = .shiftpan ∨ i = .encode ∨ i = .decode) ∧
      t.errinfo.toNat = x.format.toNat) ∧
    (t.status.errcode = 3 → (i = .expand ∨ i = .encode ∨ i = .decode) ∧ t.errinfo = x.keylen) ∧
    (t.status.errcode = 4 →
      (t.errinfo = 1 ∧ i = .mask .input ∧ ∀ a, pack .paddedPin fieldA ≠ .ok a) ∨
      (t.errinfo = 1 ∧ i = .encode ∧ ∃ pf, padPin x.format x.pin x.pinlen = .ok pf ∧
        ∀ a, pack .paddedPin pf ≠ .ok a) ∨
      (t.errinfo = 2 ∧ (∃ src, i = .mask src) ∧ ∀ b, pack .shiftedPan fieldB ≠ .ok b) ∨
      (t.errinfo = 2 ∧ (i = .encode ∨ i = .decode) ∧ ∃ sf,
        shiftPan x.format x.pan x.panlen = .ok sf ∧ ∀ b, pack .shiftedPan sf ≠ .ok b)) ∧
    (t.status.errcode = 5 → (i = .shiftpan ∨ i = .encode ∨ i = .decode) ∧ t.errinfo = x.panlen) ∧
    (t.status.errcode = 6 →
      (∃ a b, ((i = .mask .input ∧ pack .paddedPin fieldA = .ok a) ∨ (i = .mask .blkout ∧ a = out)) ∧
        pack .shiftedPan fieldB = .ok b ∧ a.length ≠ b.length ∧
        t.errinfo.toNat = a.length * 2 ^ 16 + b.length) ∨
      ((i = .encrypt .blkout ∨ i = .decrypt .blkout) ∧ s.outlen ≠ 8 ∧
        t.errinfo.toNat = s.outlen.toNat * 2 ^ 16 + 8)) ∧
    (t.status.errcode = 7 →
      (∃ n, i = .bcd2dec n ∧ t.errinfo.toNat = n.toNat) ∨
      (∃ off d, i = .bcd2ascii off d ∧ t.errinfo.toNat = d.toNat)) ∧
    (t.status.errcode = 8 → (∃ src, i = .encrypt src ∨ i = .decrypt src) ∧ t.errinfo = 0)) ∧
  (∀ (s : State) (p : Pending) (r : DecodeError), s.engineTurn p → decode p.word = .error r →
    ∃ t, step s = .next t ∧ t.status.err = true ∧ t.status.errcode = 9 ∧ t.errinfo = p.word)

/-! ### Key expander -/

/-- 40_key_expander R100 and R101: EXPAND repeats a key of 8, 16 or 24 bytes to 24 bytes in KX and
sets KEYVALID; any other KEYLEN gives KeySizeError(KEYLEN) and destroys KX. -/
def Obligations.ExpandLoadsRepeatedKey : Prop :=
  encode .expand = 0x00000001#32 ∧
  ∀ s : State,
    ((s.snapshot.keylen = 8 ∨ s.snapshot.keylen = 16 ∨ s.snapshot.keylen = 24) →
      ∃ t, exec .expand s = .next t ∧
        expandKey s.snapshot.key s.snapshot.keylen = .ok t.kx ∧
        (∀ i, ∀ h : i < 24, t.kx[i] = s.snapshot.key[i % s.snapshot.keylen.toNat]'(
          Nat.lt_of_le_of_lt (Nat.mod_le _ _) h)) ∧
        t.status.keyvalid = true ∧ s.SucceededFrom t ∧ s.SameBut .key t) ∧
    (¬ (s.snapshot.keylen = 8 ∨ s.snapshot.keylen = 16 ∨ s.snapshot.keylen = 24) →
      expandKey s.snapshot.key s.snapshot.keylen = .error (.keySize s.snapshot.keylen) ∧
      exec .expand s = .next (s.failedWith .key 3 s.snapshot.keylen))

/-- The key-expansion equivalence of the source's §8 (40_key_expander R104, which the spec marks as
derived): the 8-byte key K expands as K‖K‖K does, the 16-byte key K1‖K2 as K1‖K2‖K1 does, and with
K1 = K2 = K3 triple DES is single DES under K1. -/
def Obligations.ShortKeysActAsTheirExpansion : Prop :=
  (∀ (key long : Vector Byte 24), (∀ i, ∀ h : i < 24, long[i] = key[i % 8]) →
    expandKey key 8 = expandKey long 24) ∧
  (∀ (key long : Vector Byte 24), (∀ i, ∀ h : i < 24, long[i] = key[i % 16]) →
    expandKey key 16 = expandKey long 24) ∧
  (∀ (x : Vector Byte 24) (b : Block), subKey x 0 = subKey x 1 → subKey x 1 = subKey x 2 →
    tdesE x b = desE (subKey x 0) b)

/-! ### Block cipher -/

/-- 41_des_engine R129: decryption is encryption with the sixteen round keys in reverse order, and
undoes it for every key and block. -/
def Obligations.DesDecryptUndoesEncrypt : Prop :=
  (∀ k y : Block, (schedule k).length = 16 ∧ desD k y = desWith (schedule k).reverse y ∧
    desE k y = desWith (schedule k) y) ∧
  ∀ k x : Block, desD k (desE k x) = x

/-- Triple DES undone (41_des_engine R132, which the spec marks as derived), both ways, for every
expanded key and block. -/
def Obligations.TdesDecryptUndoesEncrypt : Prop :=
  ∀ (x : Vector Byte 24) (b : Block), tdesD x (tdesE x b) = b ∧ tdesE x (tdesD x b) = b

/-- 41_des_engine R130 (which the spec marks as derived): two sub-keys that differ only in the low
bits of their bytes give the same round keys and the same results. -/
def Obligations.ParityBitsDoNotMatter : Prop :=
  ∀ k k' : Block, (k ^^^ k') &&& 0xFEFEFEFEFEFEFEFE#64 = 0 →
    schedule k = schedule k' ∧ ∀ x, desE k x = desE k' x ∧ desD k x = desD k' x

/-- Published and source vectors: 95_test_vectors 2.4 (single DES, triple DES) and V-DOC-1. -/
def Obligations.CipherVectors : Prop :=
  desE 0x133457799BBCDFF1#64 0x0123456789ABCDEF#64 = 0x85E813540F0AB405#64 ∧
  desE 0x0123456789ABCDEF#64 0x4E6F772069732074#64 = 0x3FA40E8A984D4815#64 ∧
  desE 0x0123456789ABCDEF#64 0x045851B9DA6A7AEA#64 = 0xE1396DE02A72D77A#64 ∧
  tdesE (fit 24 [0x01, 0x23, 0x45, 0x67, 0x89, 0xAB, 0xCD, 0xEF, 0x23, 0x45, 0x67, 0x89, 0xAB, 0xCD,
    0xEF, 0x01, 0x45, 0x67, 0x89, 0xAB, 0xCD, 0xEF, 0x01, 0x23]) 0x5468652071756663#64 =
    0xA826FD8CE53B855F#64

/-- 41_des_engine R133: ENCRYPT, its two checks in order, and its result. -/
def Obligations.EncryptResult : Prop :=
  encode (.encrypt .input) = 0x00000005#32 ∧ encode (.encrypt .blkout) = 0x00000105#32 ∧
  ∀ (s : State) (src : Src),
    (s.status.keyvalid = false → exec (.encrypt src) s = .next (s.failedWith .blkout 8 0)) ∧
    (s.status.keyvalid = true → src = .blkout → s.outlen ≠ 8 →
      exec (.encrypt src) s =
        .next (s.failedWith .blkout 6 (BitVec.ofNat 32 (s.outlen.toNat * 2 ^ 16 + 8)))) ∧
    (s.status.keyvalid = true → (src = .blkout → s.outlen = 8) →
      ∃ t, exec (.encrypt src) s = .next t ∧
        blockOfBytes t.blkout.toList = tdesE s.kx (blockOfBytes
          (match src with | .input => s.snapshot.blkin.toList | .blkout => s.blkout.toList)) ∧
        t.outlen = 8 ∧ s.SucceededFrom t ∧ s.SameBut .blkout t)

/-- 41_des_engine R134: DECRYPT, its two checks in order, and its result. -/
def Obligations.DecryptResult : Prop :=
  encode (.decrypt .input) = 0x00000006#32 ∧ encode (.decrypt .blkout) = 0x00000106#32 ∧
  ∀ (s : State) (src : Src),
    (s.status.keyvalid = false → exec (.decrypt src) s = .next (s.failedWith .blkout 8 0)) ∧
    (s.status.keyvalid = true → src = .blkout → s.outlen ≠ 8 →
      exec (.decrypt src) s =
        .next (s.failedWith .blkout 6 (BitVec.ofNat 32 (s.outlen.toNat * 2 ^ 16 + 8)))) ∧
    (s.status.keyvalid = true → (src = .blkout → s.outlen = 8) →
      ∃ t, exec (.decrypt src) s = .next t ∧
        blockOfBytes t.blkout.toList = tdesD s.kx (blockOfBytes
          (match src with | .input => s.snapshot.blkin.toList | .blkout => s.blkout.toList)) ∧
        t.outlen = 8 ∧ s.SucceededFrom t ∧ s.SameBut .blkout t)

/-- `ENCRYPT.OUT` followed by `DECRYPT.OUT` restores BLKOUT (41_des_engine R134, a corner case). -/
def Obligations.EncryptOutThenDecryptOutRestores : Prop :=
  ∀ s : State, s.status.keyvalid = true → s.outlen = 8 →
    ∃ t u, s.runCommand (.encrypt .blkout) = .next t ∧ t.runCommand (.decrypt .blkout) = .next u ∧
      u.blkout = s.blkout ∧ u.outlen = 8 ∧ u.status.err = false

/-! ### Format encoder and nibble packer -/

/-- 42_format_encoder R140 and R141: PADPIN, the length checked before the format, the characters
copied unchanged, no fill for FORMAT_1 and FORMAT_3. -/
def Obligations.PadpinResult : Prop :=
  encode .padpin = 0x00000002#32 ∧
  ∀ s : State, let x := s.snapshot; let pl := x.pinlen.toNat
    (¬ (1 ≤ pl ∧ pl ≤ 9) → exec .padpin s = .next (s.failedWith .fielda 1 x.pinlen)) ∧
    (1 ≤ pl → pl ≤ 9 → x.format ≠ 0 → x.format ≠ 1 → x.format ≠ 3 →
      exec .padpin s = .next (s.failedWith .fielda 2 (x.format.setWidth 32))) ∧
    (1 ≤ pl → pl ≤ 9 → x.format = 0 →
      ∃ t, exec .padpin s = .next t ∧ t.fieldaLen = 16 ∧ t.fielda[0] = 0x30#8 ∧
        t.fielda[1].toNat = 0x30 + pl ∧
        (∀ i, ∀ h : i < 14, t.fielda[2 + i] = if i < pl then x.pin[i] else 0x46#8) ∧
        s.SucceededFrom t ∧ s.SameBut .fielda t) ∧
    (1 ≤ pl → pl ≤ 9 → (x.format = 1 ∨ x.format = 3) →
      ∃ t, exec .padpin s = .next t ∧ t.fieldaLen.toNat = 2 + pl ∧
        t.fielda[0].toNat = 0x30 + x.format.toNat ∧ t.fielda[1].toNat = 0x30 + pl ∧
        (∀ i, ∀ h : i < 14, t.fielda[2 + i] = if i < pl then x.pin[i] else 0#8) ∧
        s.SucceededFrom t ∧ s.SameBut .fielda t)

/-- 42_format_encoder R142 and R143: SHIFTPAN, the format checked before the length, then "0000" and
PAN[PANLEN-13 .. PANLEN-2]. -/
def Obligations.ShiftpanResult : Prop :=
  encode .shiftpan = 0x00000003#32 ∧
  ∀ s : State, let x := s.snapshot; let pl := x.panlen.toNat
    (x.format ≠ 0 → exec .shiftpan s = .next (s.failedWith .fieldb 2 (x.format.setWidth 32))) ∧
    (x.format = 0 → ¬ (13 ≤ pl ∧ pl ≤ 24) →
      exec .shiftpan s = .next (s.failedWith .fieldb 5 x.panlen)) ∧
    (x.format = 0 → 13 ≤ pl → ∀ hpl : pl ≤ 24,
      ∃ t, exec .shiftpan s = .next t ∧ t.fieldbLen = 16 ∧
        (∀ i, ∀ h : i < 4, t.fieldb[i] = 0x30#8) ∧
        (∀ i, ∀ h : i < 12, ∀ h' : pl - 13 + i < 24, t.fieldb[4 + i] = x.pan[pl - 13 + i]) ∧
        s.SucceededFrom t ∧ s.SameBut .fieldb t)

/-- 42_format_encoder R144: the nibble of a hexadecimal character of either case; every other byte
value is none. -/
def Obligations.HexDigitValues : Prop :=
  ∀ c : Byte,
    (0x30 ≤ c.toNat → c.toNat ≤ 0x39 → (nib c).map BitVec.toNat = some (c.toNat - 0x30)) ∧
    (0x41 ≤ c.toNat → c.toNat ≤ 0x46 → (nib c).map BitVec.toNat = some (c.toNat - 0x41 + 10)) ∧
    (0x61 ≤ c.toNat → c.toNat ≤ 0x66 → (nib c).map BitVec.toNat = some (c.toNat - 0x61 + 10)) ∧
    (isHexChar c = false → nib c = none)

/-- 42_format_encoder R145: the nibble packer. A field of even length whose characters are all
hexadecimal digits packs, the first character of each pair in the high nibble; every other field gives
HexDecodeError with the field's number. -/
def Obligations.PackPairsNibbles : Prop :=
  ∀ (field : FieldId) (cs : List Byte),
    (cs.length % 2 = 0 → (∀ c ∈ cs, isHexChar c = true) →
      ∃ bs, pack field cs = .ok bs ∧ bs.length = cs.length / 2 ∧
        ∀ i, i < bs.length →
          nib (cs.getD (2 * i) 0) = some ((bs.getD i 0).extractLsb' 4 4) ∧
          nib (cs.getD (2 * i + 1) 0) = some ((bs.getD i 0).extractLsb' 0 4)) ∧
    (¬ (cs.length % 2 = 0 ∧ ∀ c ∈ cs, isHexChar c = true) →
      pack field cs = .error (.hexDecode field))

/-! ### Masking -/

/-- The laws of `xorBuffers` (43_mask R160; the spec marks the laws as derived from the rule). -/
def Obligations.XorBuffersLaws : Prop :=
  ∀ a b : List Byte,
    (a.length ≠ b.length → xorBuffers a b = .error (.lengthMismatch a.length b.length)) ∧
    (a.length = b.length → ∃ c, xorBuffers a b = .ok c ∧ c.length = a.length ∧
      (∀ i, i < a.length → c.getD i 0 = a.getD i 0 ^^^ b.getD i 0) ∧
      xorBuffers b a = .ok c ∧ xorBuffers c b = .ok a)

/-- 43_mask R161: MASK with its first operand `a` (the packed FIELDA, or BLKOUT[0..OUTLEN-1]) and its
second `b` (the packed FIELDB): the errors in order, and the result. -/
def Obligations.MaskResult : Prop :=
  encode (.mask .input) = 0x00000004#32 ∧ encode (.mask .blkout) = 0x00000104#32 ∧
  ∀ (s : State) (src : Src),
    let fieldA := s.fielda.toList.take s.fieldaLen.toNat
    let fieldB := s.fieldb.toList.take s.fieldbLen.toNat
    let out := s.blkout.toList.take s.outlen.toNat
    (src = .input → pack .paddedPin fieldA = .error (.hexDecode .paddedPin) →
      exec (.mask src) s = .next (s.failedWith .blkout 4 1)) ∧
    ∀ a : List Byte, (match src with | .input => pack .paddedPin fieldA = .ok a | .blkout => a = out) →
      (pack .shiftedPan fieldB = .error (.hexDecode .shiftedPan) →
        exec (.mask src) s = .next (s.failedWith .blkout 4 2)) ∧
      ∀ b : List Byte, pack .shiftedPan fieldB = .ok b →
        (a.length ≠ b.length →
          exec (.mask src) s =
            .next (s.failedWith .blkout 6 (BitVec.ofNat 32 (a.length * 2 ^ 16 + b.length)))) ∧
        (a.length = b.length →
          ∃ t, exec (.mask src) s = .next t ∧ t.outlen.toNat = a.length ∧
            (∀ i, ∀ h : i < 8, t.blkout[i] =
              if i < a.length then a.getD i 0 ^^^ b.getD i 0 else 0) ∧
            s.SucceededFrom t ∧ s.SameBut .blkout t)

/-- "`MASK.OUT` twice in a row restores BLKOUT" (43_mask R161, a corner case), where the first one
succeeds, in every state that meets the register invariant. -/
def Obligations.MaskOutTwiceRestores : Prop :=
  ∀ s t : State, s.Inv → s.runCommand (.mask .blkout) = .next t → t.status.err = false →
    ∃ u, t.runCommand (.mask .blkout) = .next u ∧ u.status.err = false ∧
      u.blkout = s.blkout ∧ u.outlen = s.outlen

/-! ### BCD -/

/-- The corner values of `bcdToDecimal` (44_bcd_decoder R170, marked there as derived): 8 bytes never
exceed 16666666666666665, which is the value of eight bytes 0xFF. -/
def Obligations.BcdToDecimalBound : Prop :=
  (∀ bs : List Byte, bs.length ≤ 8 → bcdToDecimal bs ≤ 16666666666666665) ∧
  bcdToDecimal (List.replicate 8 0xFF#8) = 16666666666666665 ∧ bcdToDecimal [] = 0

/-- 44_bcd_decoder R171: BCD2DEC of N bytes, byte 0 the most significant pair, into the 64-bit ACC. -/
def Obligations.Bcd2decResult : Prop :=
  (∀ n : BitVec 4, encode (.bcd2dec n) = 0x00000007#32 ||| n.setWidth 32 <<< 16) ∧
  (∀ n : BitVec 4, 9 ≤ n.toNat → ∃ r, decode (0x00000007#32 ||| n.setWidth 32 <<< 16) = .error r) ∧
  ∀ (s : State) (n : BitVec 4), (Instr.bcd2dec n).wellFormed = true →
    (s.outlen.toNat < n.toNat →
      exec (.bcd2dec n) s = .next (s.failedWith .acc 7 (n.setWidth 32))) ∧
    (n.toNat ≤ s.outlen.toNat →
      ∃ t, exec (.bcd2dec n) s = .next t ∧
        t.acc.toNat = ((List.range n.toNat).map fun i =>
          (((s.blkout.toList.getD i 0).extractLsb' 4 4).toNat * 10 +
            ((s.blkout.toList.getD i 0).extractLsb' 0 4).toNat) * 100 ^ (n.toNat - 1 - i)).sum ∧
        s.SucceededFrom t ∧ s.SameBut .acc t)

/-- 44_bcd_decoder R172: the character of each nibble, the letters uppercase. -/
def Obligations.NibbleCharacters : Prop :=
  ∀ v : BitVec 4,
    (v.toNat ≤ 9 → (asc v).toNat = 0x30 + v.toNat) ∧
    (10 ≤ v.toNat → (asc v).toNat = 0x41 + (v.toNat - 10)) ∧
    isPinoutChar (asc v) = true ∧ nib (asc v) = some v

/-- 44_bcd_decoder R174: BCD2ASCII unpacks D nibbles from BLKOUT[OFF..OUTLEN-1], high nibble first,
into PINOUT, or gives InsufficientDataError(D). OUTLEN is "a value 0..8" (10_state R34), which
`State.Inv` keeps. -/
def Obligations.Bcd2asciiResult : Prop :=
  (∀ (off : BitVec 4) (d : BitVec 5), encode (.bcd2ascii off d) =
    0x00000008#32 ||| off.setWidth 32 <<< 16 ||| d.setWidth 32 <<< 20) ∧
  ∀ (s : State) (off : BitVec 4) (d : BitVec 5), (Instr.bcd2ascii off d).wellFormed = true →
    s.outlen.toNat ≤ 8 →
    (s.outlen.toNat - off.toNat < (d.toNat + 1) / 2 →
      exec (.bcd2ascii off d) s = .next (s.failedWith .pinout 7 (d.setWidth 32))) ∧
    ((d.toNat + 1) / 2 ≤ s.outlen.toNat - off.toNat →
      ∃ t, exec (.bcd2ascii off d) s = .next t ∧ t.pinoutLen = d ∧
        (∀ i, ∀ h : i < 16, t.pinout[i] =
          if i < d.toNat then
            asc ((s.blkout.toList.getD (off.toNat + i / 2) 0).extractLsb'
              (if i % 2 = 0 then 4 else 0) 4)
          else 0) ∧
        s.SucceededFrom t ∧ s.SameBut .pinout t)

/-! ### Pipelines -/

/-- ENCODE (45_pipelines R190) where every check passes: the packed padded PIN XOR the packed shifted
PAN, encrypted once under the expanded key, is in BLKOUT, and nothing else is written (R197). -/
def Obligations.EncodeResult : Prop :=
  encode .encode = 0x00000010#32 ∧
  ∀ s : State, let x := s.snapshot
    (x.keylen = 8 ∨ x.keylen = 16 ∨ x.keylen = 24) → x.format = 0 →
    1 ≤ x.pinlen.toNat → x.pinlen.toNat ≤ 9 → 13 ≤ x.panlen.toNat → x.panlen.toNat ≤ 24 →
    (∀ i, i < x.pinlen.toNat → isHexChar (x.pin.toList.getD i 0) = true) →
    (∀ i, x.panlen.toNat - 13 ≤ i → i < x.panlen.toNat - 1 →
      isHexChar (x.pan.toList.getD i 0) = true) →
    ∃ t key pf sf a b, exec .encode s = .next t ∧
      expandKey x.key x.keylen = .ok key ∧ padPin x.format x.pin x.pinlen = .ok pf ∧
      shiftPan x.format x.pan x.panlen = .ok sf ∧ pack .paddedPin pf = .ok a ∧
      pack .shiftedPan sf = .ok b ∧
      blockOfBytes t.blkout.toList = tdesE key (blockOfBytes a ^^^ blockOfBytes b) ∧
      t.outlen = 8 ∧ s.SucceededFrom t ∧ s.SameBut .blkout t

/-- The order of ENCODE's errors (45_pipelines R191, which the spec marks as derived): each check is
reported only if the earlier ones pass, with its code and ERRINFO, and no other error occurs. -/
def Obligations.EncodeErrorOrder : Prop :=
  ∀ s : State, let x := s.snapshot
    let keyOk := x.keylen = 8 ∨ x.keylen = 16 ∨ x.keylen = 24
    let pinLenOk := 1 ≤ x.pinlen.toNat ∧ x.pinlen.toNat ≤ 9
    let panLenOk := 13 ≤ x.panlen.toNat ∧ x.panlen.toNat ≤ 24
    let pinHex := ∀ i, i < x.pinlen.toNat → isHexChar (x.pin.toList.getD i 0) = true
    let panHex := ∀ i, x.panlen.toNat - 13 ≤ i → i < x.panlen.toNat - 1 →
      isHexChar (x.pan.toList.getD i 0) = true
    (¬ keyOk → exec .encode s = .next (s.failedWith .blkout 3 x.keylen)) ∧
    (keyOk → ¬ pinLenOk → exec .encode s = .next (s.failedWith .blkout 1 x.pinlen)) ∧
    (keyOk → pinLenOk → x.format ≠ 0 →
      exec .encode s = .next (s.failedWith .blkout 2 (x.format.setWidth 32))) ∧
    (keyOk → pinLenOk → x.format = 0 → ¬ panLenOk →
      exec .encode s = .next (s.failedWith .blkout 5 x.panlen)) ∧
    (keyOk → pinLenOk → x.format = 0 → panLenOk → ¬ pinHex →
      exec .encode s = .next (s.failedWith .blkout 4 1)) ∧
    (keyOk → pinLenOk → x.format = 0 → panLenOk → pinHex → ¬ panHex →
      exec .encode s = .next (s.failedWith .blkout 4 2)) ∧
    (keyOk → pinLenOk → x.format = 0 → panLenOk → pinHex → panHex →
      ∃ t, exec .encode s = .next t ∧ t.status.err = false)

/-- DECODE (45_pipelines R192) where every check passes: with the clear block `c` (the decrypted BLKIN
XOR the packed shifted PAN) and L = 10·hi + lo of its byte 0, at most 10, PINOUT holds the L nibbles
from byte 1 on as characters, and nothing else is written (R197). -/
def Obligations.DecodeResult : Prop :=
  encode .decode = 0x00000011#32 ∧
  ∀ (s : State) (key : Vector Byte 24) (sf b : List Byte), let x := s.snapshot
    expandKey x.key x.keylen = .ok key → x.format = 0 →
    shiftPan x.format x.pan x.panlen = .ok sf → pack .shiftedPan sf = .ok b →
    let c := bytesOfBlock (tdesD key (blockOfBytes x.blkin.toList) ^^^ blockOfBytes b)
    let len := ((c.getD 0 0).extractLsb' 4 4).toNat * 10 + ((c.getD 0 0).extractLsb' 0 4).toNat
    len ≤ 10 →
    ∃ t, exec .decode s = .next t ∧ t.pinoutLen.toNat = len ∧
      (∀ i, ∀ h : i < 16, t.pinout[i] =
        if i < len then
          asc ((c.getD (1 + i / 2) 0).extractLsb' (if i % 2 = 0 then 4 else 0) 4)
        else 0) ∧
      s.SucceededFrom t ∧ s.SameBut .pinout t

/-- The order of DECODE's errors (45_pipelines R193, which the spec marks as derived). -/
def Obligations.DecodeErrorOrder : Prop :=
  ∀ s : State, let x := s.snapshot
    let panLenOk := 13 ≤ x.panlen.toNat ∧ x.panlen.toNat ≤ 24
    let panHex := ∀ i, x.panlen.toNat - 13 ≤ i → i < x.panlen.toNat - 1 →
      isHexChar (x.pan.toList.getD i 0) = true
    (¬ (x.keylen = 8 ∨ x.keylen = 16 ∨ x.keylen = 24) →
      exec .decode s = .next (s.failedWith .pinout 3 x.keylen)) ∧
    ∀ key, expandKey x.key x.keylen = .ok key →
      (x.format ≠ 0 → exec .decode s = .next (s.failedWith .pinout 2 (x.format.setWidth 32))) ∧
      (x.format = 0 → ¬ panLenOk → exec .decode s = .next (s.failedWith .pinout 5 x.panlen)) ∧
      (x.format = 0 → panLenOk → ¬ panHex → exec .decode s = .next (s.failedWith .pinout 4 2)) ∧
      (∀ sf b, x.format = 0 → shiftPan x.format x.pan x.panlen = .ok sf →
        pack .shiftedPan sf = .ok b →
        let c := bytesOfBlock (tdesD key (blockOfBytes x.blkin.toList) ^^^ blockOfBytes b)
        10 < ((c.getD 0 0).extractLsb' 4 4).toNat * 10 + ((c.getD 0 0).extractLsb' 0 4).toNat →
        exec .decode s = .next (s.failedWith .pinout 2 0))

/-- The §8 round trip (45_pipelines R195, which the spec marks as derived): for FORMAT_0, a key of 8,
16 or 24 bytes, a decimal PIN of 1 to 9 digits and a decimal PAN of 13 to 24 digits, ENCODE, then
BLKOUT copied to BLKIN, then DECODE gives back the PIN. -/
def Obligations.EncodeThenDecodeReturnsThePin : Prop :=
  ∀ s : State, let x := s.inputs
    x.format = 0 → (x.keylen = 8 ∨ x.keylen = 16 ∨ x.keylen = 24) →
    1 ≤ x.pinlen.toNat → x.pinlen.toNat ≤ 9 → 13 ≤ x.panlen.toNat → x.panlen.toNat ≤ 24 →
    (∀ i, ∀ h : i < 16, i < x.pinlen.toNat → isDecimalChar x.pin[i] = true) →
    (∀ i, ∀ h : i < 24, i < x.panlen.toNat → isDecimalChar x.pan[i] = true) →
    ∃ t u, s.runCommand .encode = .next t ∧ t.status.err = false ∧
      State.runCommand { t with inputs := { t.inputs with blkin := t.blkout } } .decode = .next u ∧
      u.status.err = false ∧ u.pinoutLen.toNat = x.pinlen.toNat ∧
      ∀ i, ∀ h : i < 16, u.pinout[i] = if i < x.pinlen.toNat then x.pin[i] else 0

/-- ENCODE and DECODE do not depend on any earlier command (45_pipelines R197): from states whose
snapshots agree on the operands each reads, they write the same results and give the same outcome. -/
def Obligations.PipelinesDependOnInputsOnly : Prop :=
  (∀ s s' t t' : State, exec .encode s = .next t → exec .encode s' = .next t' →
    s'.snapshot = { s.snapshot with blkin := s'.snapshot.blkin } →
    t'.blkout = t.blkout ∧ t'.outlen = t.outlen ∧ t'.status.err = t.status.err ∧
      t'.status.errcode = t.status.errcode ∧ t'.errinfo = t.errinfo) ∧
  (∀ s s' t t' : State, exec .decode s = .next t → exec .decode s' = .next t' →
    s'.snapshot = { s.snapshot with pin := s'.snapshot.pin, pinlen := s'.snapshot.pinlen } →
    t'.pinout = t.pinout ∧ t'.pinoutLen = t.pinoutLen ∧ t'.status.err = t.status.err ∧
      t'.status.errcode = t.status.errcode ∧ t'.errinfo = t.errinfo)

/-- The primitives chained compute what ENCODE computes (the source's §2 encode path, decision D31):
wherever ENCODE succeeds, EXPAND, PADPIN, SHIFTPAN, MASK.FLD and ENCRYPT.OUT all succeed and leave the
same BLKOUT. -/
def Obligations.EncodeEqualsItsPrimitives : Prop :=
  ∀ s e : State, s.runCommand .encode = .next e → e.status.err = false →
    ∃ a b c d f : State,
      s.runCommand .expand = .next a ∧ a.runCommand .padpin = .next b ∧
      b.runCommand .shiftpan = .next c ∧ c.runCommand (.mask .input) = .next d ∧
      d.runCommand (.encrypt .blkout) = .next f ∧
      a.status.err = false ∧ b.status.err = false ∧ c.status.err = false ∧ d.status.err = false ∧
      f.status.err = false ∧ f.blkout = e.blkout ∧ f.outlen = e.outlen

/-- The primitives chained compute what DECODE computes (the source's §2 decode path, decision D31):
wherever DECODE succeeds with length L, EXPAND, SHIFTPAN, DECRYPT.IN, MASK.OUT, BCD2DEC 1 (which gives
L in ACC) and BCD2ASCII 1, L all succeed and leave the same PINOUT. -/
def Obligations.DecodeEqualsItsPrimitives : Prop :=
  ∀ s e : State, s.runCommand .decode = .next e → e.status.err = false →
    ∃ a b c d f g : State,
      s.runCommand .expand = .next a ∧ a.runCommand .shiftpan = .next b ∧
      b.runCommand (.decrypt .input) = .next c ∧ c.runCommand (.mask .blkout) = .next d ∧
      d.runCommand (.bcd2dec 1) = .next f ∧ f.acc.toNat = e.pinoutLen.toNat ∧
      f.runCommand (.bcd2ascii 1 e.pinoutLen) = .next g ∧
      a.status.err = false ∧ b.status.err = false ∧ c.status.err = false ∧ d.status.err = false ∧
      f.status.err = false ∧ g.status.err = false ∧ g.pinout = e.pinout ∧ g.pinoutLen = e.pinoutLen

/-! ### Assembler -/

/-- The loading pseudo-instructions of 30_encoding R91 fill their registers: from an idle block,
running what `ld.pin`, `ld.pan`, `ld.key` or `ld.blk` expands into leaves the length and the bytes in
the input registers, 0 in what is left of the last word written, the bytes above that word as they
were, and every other register untouched; a longer operand is an assembly error. `ld.fmt` leaves the
low 8 bits of its operand in FORMAT and everything else untouched. -/
def Obligations.LoadStatementsFillRegisters : Prop :=
  (∀ (bs : List Byte) (ops : List HostOp) (s : State), s.latch = none → s.hostOps = ops →
    (stmtLdPin bs = some ops →
      ∃ t, Host.Core.run core ops.length s = .next t ∧
        t.inputs.pinlen.toNat = bs.length ∧
        (∀ i, ∀ h : i < 16, t.inputs.pin[i] =
          if i < bs.length then bs.getD i 0
          else if i < 4 * ((bs.length + 3) / 4) then 0
          else s.inputs.pin[i]) ∧
        t = { s with hostOps := [],
                     inputs := { s.inputs with pinlen := t.inputs.pinlen, pin := t.inputs.pin } }) ∧
    (stmtLdPan bs = some ops →
      ∃ t, Host.Core.run core ops.length s = .next t ∧
        t.inputs.panlen.toNat = bs.length ∧
        (∀ i, ∀ h : i < 24, t.inputs.pan[i] =
          if i < bs.length then bs.getD i 0
          else if i < 4 * ((bs.length + 3) / 4) then 0
          else s.inputs.pan[i]) ∧
        t = { s with hostOps := [],
                     inputs := { s.inputs with panlen := t.inputs.panlen, pan := t.inputs.pan } }) ∧
    (stmtLdKey bs = some ops →
      ∃ t, Host.Core.run core ops.length s = .next t ∧
        t.inputs.keylen.toNat = bs.length ∧
        (∀ i, ∀ h : i < 24, t.inputs.key[i] =
          if i < bs.length then bs.getD i 0
          else if i < 4 * ((bs.length + 3) / 4) then 0
          else s.inputs.key[i]) ∧
        t = { s with hostOps := [],
                     inputs := { s.inputs with keylen := t.inputs.keylen, key := t.inputs.key } }) ∧
    (stmtLdBlk bs = some ops →
      ∃ t, Host.Core.run core ops.length s = .next t ∧ t.inputs.blkin.toList = bs ∧
        t = { s with hostOps := [], inputs := { s.inputs with blkin := t.inputs.blkin } })) ∧
  (∀ (f : Word) (s : State), s.latch = none → s.hostOps = stmtLdFmt f →
    ∃ t, Host.Core.run core (stmtLdFmt f).length s = .next t ∧
      t.inputs.format.toNat = f.toNat % 256 ∧
      t = { s with hostOps := [], inputs := { s.inputs with format := t.inputs.format } }) ∧
  (∀ bs : List Byte, (stmtLdPin bs = none ↔ 16 < bs.length) ∧ (stmtLdPan bs = none ↔ 24 < bs.length) ∧
    (stmtLdKey bs = none ↔ 24 < bs.length) ∧ (stmtLdBlk bs = none ↔ bs.length ≠ 8))

/-! ### Invariants -/

/-- The register invariant holds after reset. -/
def Obligations.InvariantAtReset : Prop := State.reset.Inv

/-- Every step keeps the register invariant, from every state that meets it: BUSY agrees with the
latch, the flags with the outcome, OUTLEN is 0 or 8, the field lengths are legal, no byte above a
length is set, PINOUT holds only the characters of R172, KX is 0 without KEYVALID, and ACC stays below
its bound (10_state R23-R47). -/
def Obligations.StepKeepsInvariant : Prop :=
  ∀ s t : State, s.Inv → step s = .next t → t.Inv
end

