-- ==== Sys2Proof/Laws/State.lean ====
section
/-! SUPPORT. One lemma per field per update of State, each true by `rfl`. -/

namespace Sys2Proof.Machine

variable (s : State) (st : Status)

/-! ### Status.accepted -/

@[simp] theorem Status.accepted_busy : (st.accepted).busy = true := rfl
@[simp] theorem Status.accepted_done : (st.accepted).done = false := rfl
@[simp] theorem Status.accepted_err : (st.accepted).err = false := rfl
@[simp] theorem Status.accepted_keyvalid : (st.accepted).keyvalid = st.keyvalid := rfl
@[simp] theorem Status.accepted_ovr : (st.accepted).ovr = false := rfl
@[simp] theorem Status.accepted_errcode : (st.accepted).errcode = 0 := rfl

/-! ### Status.succeeded -/

@[simp] theorem Status.succeeded_busy : (st.succeeded).busy = false := rfl
@[simp] theorem Status.succeeded_done : (st.succeeded).done = true := rfl
@[simp] theorem Status.succeeded_err : (st.succeeded).err = false := rfl
@[simp] theorem Status.succeeded_keyvalid : (st.succeeded).keyvalid = st.keyvalid := rfl
@[simp] theorem Status.succeeded_ovr : (st.succeeded).ovr = st.ovr := rfl
@[simp] theorem Status.succeeded_errcode : (st.succeeded).errcode = 0 := rfl

/-! ### Status.failed -/

@[simp] theorem Status.failed_busy (e : CmdError) : (st.failed e).busy = false := rfl
@[simp] theorem Status.failed_done (e : CmdError) : (st.failed e).done = true := rfl
@[simp] theorem Status.failed_err (e : CmdError) : (st.failed e).err = true := rfl
@[simp] theorem Status.failed_keyvalid (e : CmdError) : (st.failed e).keyvalid = st.keyvalid := rfl
@[simp] theorem Status.failed_ovr (e : CmdError) : (st.failed e).ovr = st.ovr := rfl
@[simp] theorem Status.failed_errcode (e : CmdError) : (st.failed e).errcode = e.code := rfl

/-! ### State.issue -/

@[simp] theorem State.issue_cmd (w : Word) (n : Nat) : (s.issue w n).cmd = w := rfl
@[simp] theorem State.issue_status (w : Word) (n : Nat) :
    (s.issue w n).status = s.status.accepted := rfl
@[simp] theorem State.issue_errinfo (w : Word) (n : Nat) : (s.issue w n).errinfo = 0 := rfl
@[simp] theorem State.issue_inputs (w : Word) (n : Nat) : (s.issue w n).inputs = s.inputs := rfl
@[simp] theorem State.issue_outlen (w : Word) (n : Nat) : (s.issue w n).outlen = s.outlen := rfl
@[simp] theorem State.issue_blkout (w : Word) (n : Nat) : (s.issue w n).blkout = s.blkout := rfl
@[simp] theorem State.issue_acc (w : Word) (n : Nat) : (s.issue w n).acc = s.acc := rfl
@[simp] theorem State.issue_fielda (w : Word) (n : Nat) : (s.issue w n).fielda = s.fielda := rfl
@[simp] theorem State.issue_fieldaLen (w : Word) (n : Nat) :
    (s.issue w n).fieldaLen = s.fieldaLen := rfl
@[simp] theorem State.issue_fieldb (w : Word) (n : Nat) : (s.issue w n).fieldb = s.fieldb := rfl
@[simp] theorem State.issue_fieldbLen (w : Word) (n : Nat) :
    (s.issue w n).fieldbLen = s.fieldbLen := rfl
@[simp] theorem State.issue_pinout (w : Word) (n : Nat) : (s.issue w n).pinout = s.pinout := rfl
@[simp] theorem State.issue_pinoutLen (w : Word) (n : Nat) :
    (s.issue w n).pinoutLen = s.pinoutLen := rfl
@[simp] theorem State.issue_kx (w : Word) (n : Nat) : (s.issue w n).kx = s.kx := rfl
@[simp] theorem State.issue_latch (w : Word) (n : Nat) :
    (s.issue w n).latch = some { word := w, snap := s.inputs, wait := n } := rfl
@[simp] theorem State.issue_hostOps (w : Word) (n : Nat) : (s.issue w n).hostOps = s.hostOps := rfl
@[simp] theorem State.issue_reads (w : Word) (n : Nat) : (s.issue w n).reads = s.reads := rfl
@[simp] theorem State.issue_draws (w : Word) (n : Nat) : (s.issue w n).draws = s.draws := rfl

/-! ### State.overrun -/

@[simp] theorem State.overrun_cmd : (s.overrun).cmd = s.cmd := rfl
@[simp] theorem State.overrun_status : (s.overrun).status = { s.status with ovr := true } := rfl
@[simp] theorem State.overrun_errinfo : (s.overrun).errinfo = s.errinfo := rfl
@[simp] theorem State.overrun_inputs : (s.overrun).inputs = s.inputs := rfl
@[simp] theorem State.overrun_outlen : (s.overrun).outlen = s.outlen := rfl
@[simp] theorem State.overrun_blkout : (s.overrun).blkout = s.blkout := rfl
@[simp] theorem State.overrun_acc : (s.overrun).acc = s.acc := rfl
@[simp] theorem State.overrun_fielda : (s.overrun).fielda = s.fielda := rfl
@[simp] theorem State.overrun_fieldaLen : (s.overrun).fieldaLen = s.fieldaLen := rfl
@[simp] theorem State.overrun_fieldb : (s.overrun).fieldb = s.fieldb := rfl
@[simp] theorem State.overrun_fieldbLen : (s.overrun).fieldbLen = s.fieldbLen := rfl
@[simp] theorem State.overrun_pinout : (s.overrun).pinout = s.pinout := rfl
@[simp] theorem State.overrun_pinoutLen : (s.overrun).pinoutLen = s.pinoutLen := rfl
@[simp] theorem State.overrun_kx : (s.overrun).kx = s.kx := rfl
@[simp] theorem State.overrun_latch : (s.overrun).latch = s.latch := rfl
@[simp] theorem State.overrun_hostOps : (s.overrun).hostOps = s.hostOps := rfl
@[simp] theorem State.overrun_reads : (s.overrun).reads = s.reads := rfl
@[simp] theorem State.overrun_draws : (s.overrun).draws = s.draws := rfl

/-! ### State.succeed -/

@[simp] theorem State.succeed_cmd : (s.succeed).cmd = s.cmd := rfl
@[simp] theorem State.succeed_status : (s.succeed).status = s.status.succeeded := rfl
@[simp] theorem State.succeed_errinfo : (s.succeed).errinfo = 0 := rfl
@[simp] theorem State.succeed_inputs : (s.succeed).inputs = s.inputs := rfl
@[simp] theorem State.succeed_outlen : (s.succeed).outlen = s.outlen := rfl
@[simp] theorem State.succeed_blkout : (s.succeed).blkout = s.blkout := rfl
@[simp] theorem State.succeed_acc : (s.succeed).acc = s.acc := rfl
@[simp] theorem State.succeed_fielda : (s.succeed).fielda = s.fielda := rfl
@[simp] theorem State.succeed_fieldaLen : (s.succeed).fieldaLen = s.fieldaLen := rfl
@[simp] theorem State.succeed_fieldb : (s.succeed).fieldb = s.fieldb := rfl
@[simp] theorem State.succeed_fieldbLen : (s.succeed).fieldbLen = s.fieldbLen := rfl
@[simp] theorem State.succeed_pinout : (s.succeed).pinout = s.pinout := rfl
@[simp] theorem State.succeed_pinoutLen : (s.succeed).pinoutLen = s.pinoutLen := rfl
@[simp] theorem State.succeed_kx : (s.succeed).kx = s.kx := rfl
@[simp] theorem State.succeed_latch : (s.succeed).latch = none := rfl
@[simp] theorem State.succeed_hostOps : (s.succeed).hostOps = s.hostOps := rfl
@[simp] theorem State.succeed_reads : (s.succeed).reads = s.reads := rfl
@[simp] theorem State.succeed_draws : (s.succeed).draws = s.draws := rfl

/-! ### State.fail -/

@[simp] theorem State.fail_cmd (e : CmdError) : (s.fail e).cmd = s.cmd := rfl
@[simp] theorem State.fail_status (e : CmdError) : (s.fail e).status = s.status.failed e := rfl
@[simp] theorem State.fail_errinfo (e : CmdError) : (s.fail e).errinfo = e.info := rfl
@[simp] theorem State.fail_inputs (e : CmdError) : (s.fail e).inputs = s.inputs := rfl
@[simp] theorem State.fail_outlen (e : CmdError) : (s.fail e).outlen = s.outlen := rfl
@[simp] theorem State.fail_blkout (e : CmdError) : (s.fail e).blkout = s.blkout := rfl
@[simp] theorem State.fail_acc (e : CmdError) : (s.fail e).acc = s.acc := rfl
@[simp] theorem State.fail_fielda (e : CmdError) : (s.fail e).fielda = s.fielda := rfl
@[simp] theorem State.fail_fieldaLen (e : CmdError) : (s.fail e).fieldaLen = s.fieldaLen := rfl
@[simp] theorem State.fail_fieldb (e : CmdError) : (s.fail e).fieldb = s.fieldb := rfl
@[simp] theorem State.fail_fieldbLen (e : CmdError) : (s.fail e).fieldbLen = s.fieldbLen := rfl
@[simp] theorem State.fail_pinout (e : CmdError) : (s.fail e).pinout = s.pinout := rfl
@[simp] theorem State.fail_pinoutLen (e : CmdError) : (s.fail e).pinoutLen = s.pinoutLen := rfl
@[simp] theorem State.fail_kx (e : CmdError) : (s.fail e).kx = s.kx := rfl
@[simp] theorem State.fail_latch (e : CmdError) : (s.fail e).latch = none := rfl
@[simp] theorem State.fail_hostOps (e : CmdError) : (s.fail e).hostOps = s.hostOps := rfl
@[simp] theorem State.fail_reads (e : CmdError) : (s.fail e).reads = s.reads := rfl
@[simp] theorem State.fail_draws (e : CmdError) : (s.fail e).draws = s.draws := rfl

/-! ### State.putBlkout -/

@[simp] theorem State.putBlkout_cmd (bs : List Byte) : (s.putBlkout bs).cmd = s.cmd := rfl
@[simp] theorem State.putBlkout_status (bs : List Byte) : (s.putBlkout bs).status = s.status := rfl
@[simp] theorem State.putBlkout_errinfo (bs : List Byte) :
    (s.putBlkout bs).errinfo = s.errinfo := rfl
@[simp] theorem State.putBlkout_inputs (bs : List Byte) : (s.putBlkout bs).inputs = s.inputs := rfl
@[simp] theorem State.putBlkout_outlen (bs : List Byte) :
    (s.putBlkout bs).outlen = BitVec.ofNat 4 bs.length := rfl
@[simp] theorem State.putBlkout_blkout (bs : List Byte) : (s.putBlkout bs).blkout = fit 8 bs := rfl
@[simp] theorem State.putBlkout_acc (bs : List Byte) : (s.putBlkout bs).acc = s.acc := rfl
@[simp] theorem State.putBlkout_fielda (bs : List Byte) : (s.putBlkout bs).fielda = s.fielda := rfl
@[simp] theorem State.putBlkout_fieldaLen (bs : List Byte) :
    (s.putBlkout bs).fieldaLen = s.fieldaLen := rfl
@[simp] theorem State.putBlkout_fieldb (bs : List Byte) : (s.putBlkout bs).fieldb = s.fieldb := rfl
@[simp] theorem State.putBlkout_fieldbLen (bs : List Byte) :
    (s.putBlkout bs).fieldbLen = s.fieldbLen := rfl
@[simp] theorem State.putBlkout_pinout (bs : List Byte) : (s.putBlkout bs).pinout = s.pinout := rfl
@[simp] theorem State.putBlkout_pinoutLen (bs : List Byte) :
    (s.putBlkout bs).pinoutLen = s.pinoutLen := rfl
@[simp] theorem State.putBlkout_kx (bs : List Byte) : (s.putBlkout bs).kx = s.kx := rfl
@[simp] theorem State.putBlkout_latch (bs : List Byte) : (s.putBlkout bs).latch = s.latch := rfl
@[simp] theorem State.putBlkout_hostOps (bs : List Byte) :
    (s.putBlkout bs).hostOps = s.hostOps := rfl
@[simp] theorem State.putBlkout_reads (bs : List Byte) : (s.putBlkout bs).reads = s.reads := rfl
@[simp] theorem State.putBlkout_draws (bs : List Byte) : (s.putBlkout bs).draws = s.draws := rfl

/-! ### State.putFielda -/

@[simp] theorem State.putFielda_cmd (cs : List Byte) : (s.putFielda cs).cmd = s.cmd := rfl
@[simp] theorem State.putFielda_status (cs : List Byte) : (s.putFielda cs).status = s.status := rfl
@[simp] theorem State.putFielda_errinfo (cs : List Byte) :
    (s.putFielda cs).errinfo = s.errinfo := rfl
@[simp] theorem State.putFielda_inputs (cs : List Byte) : (s.putFielda cs).inputs = s.inputs := rfl
@[simp] theorem State.putFielda_outlen (cs : List Byte) : (s.putFielda cs).outlen = s.outlen := rfl
@[simp] theorem State.putFielda_blkout (cs : List Byte) : (s.putFielda cs).blkout = s.blkout := rfl
@[simp] theorem State.putFielda_acc (cs : List Byte) : (s.putFielda cs).acc = s.acc := rfl
@[simp] theorem State.putFielda_fielda (cs : List Byte) : (s.putFielda cs).fielda = fit 16 cs := rfl
@[simp] theorem State.putFielda_fieldaLen (cs : List Byte) :
    (s.putFielda cs).fieldaLen = BitVec.ofNat 5 cs.length := rfl
@[simp] theorem State.putFielda_fieldb (cs : List Byte) : (s.putFielda cs).fieldb = s.fieldb := rfl
@[simp] theorem State.putFielda_fieldbLen (cs : List Byte) :
    (s.putFielda cs).fieldbLen = s.fieldbLen := rfl
@[simp] theorem State.putFielda_pinout (cs : List Byte) : (s.putFielda cs).pinout = s.pinout := rfl
@[simp] theorem State.putFielda_pinoutLen (cs : List Byte) :
    (s.putFielda cs).pinoutLen = s.pinoutLen := rfl
@[simp] theorem State.putFielda_kx (cs : List Byte) : (s.putFielda cs).kx = s.kx := rfl
@[simp] theorem State.putFielda_latch (cs : List Byte) : (s.putFielda cs).latch = s.latch := rfl
@[simp] theorem State.putFielda_hostOps (cs : List Byte) :
    (s.putFielda cs).hostOps = s.hostOps := rfl
@[simp] theorem State.putFielda_reads (cs : List Byte) : (s.putFielda cs).reads = s.reads := rfl
@[simp] theorem State.putFielda_draws (cs : List Byte) : (s.putFielda cs).draws = s.draws := rfl

/-! ### State.putFieldb -/

@[simp] theorem State.putFieldb_cmd (cs : List Byte) : (s.putFieldb cs).cmd = s.cmd := rfl
@[simp] theorem State.putFieldb_status (cs : List Byte) : (s.putFieldb cs).status = s.status := rfl
@[simp] theorem State.putFieldb_errinfo (cs : List Byte) :
    (s.putFieldb cs).errinfo = s.errinfo := rfl
@[simp] theorem State.putFieldb_inputs (cs : List Byte) : (s.putFieldb cs).inputs = s.inputs := rfl
@[simp] theorem State.putFieldb_outlen (cs : List Byte) : (s.putFieldb cs).outlen = s.outlen := rfl
@[simp] theorem State.putFieldb_blkout (cs : List Byte) : (s.putFieldb cs).blkout = s.blkout := rfl
@[simp] theorem State.putFieldb_acc (cs : List Byte) : (s.putFieldb cs).acc = s.acc := rfl
@[simp] theorem State.putFieldb_fielda (cs : List Byte) : (s.putFieldb cs).fielda = s.fielda := rfl
@[simp] theorem State.putFieldb_fieldaLen (cs : List Byte) :
    (s.putFieldb cs).fieldaLen = s.fieldaLen := rfl
@[simp] theorem State.putFieldb_fieldb (cs : List Byte) : (s.putFieldb cs).fieldb = fit 16 cs := rfl
@[simp] theorem State.putFieldb_fieldbLen (cs : List Byte) :
    (s.putFieldb cs).fieldbLen = BitVec.ofNat 5 cs.length := rfl
@[simp] theorem State.putFieldb_pinout (cs : List Byte) : (s.putFieldb cs).pinout = s.pinout := rfl
@[simp] theorem State.putFieldb_pinoutLen (cs : List Byte) :
    (s.putFieldb cs).pinoutLen = s.pinoutLen := rfl
@[simp] theorem State.putFieldb_kx (cs : List Byte) : (s.putFieldb cs).kx = s.kx := rfl
@[simp] theorem State.putFieldb_latch (cs : List Byte) : (s.putFieldb cs).latch = s.latch := rfl
@[simp] theorem State.putFieldb_hostOps (cs : List Byte) :
    (s.putFieldb cs).hostOps = s.hostOps := rfl
@[simp] theorem State.putFieldb_reads (cs : List Byte) : (s.putFieldb cs).reads = s.reads := rfl
@[simp] theorem State.putFieldb_draws (cs : List Byte) : (s.putFieldb cs).draws = s.draws := rfl

/-! ### State.putPinout -/

@[simp] theorem State.putPinout_cmd (cs : List Byte) : (s.putPinout cs).cmd = s.cmd := rfl
@[simp] theorem State.putPinout_status (cs : List Byte) : (s.putPinout cs).status = s.status := rfl
@[simp] theorem State.putPinout_errinfo (cs : List Byte) :
    (s.putPinout cs).errinfo = s.errinfo := rfl
@[simp] theorem State.putPinout_inputs (cs : List Byte) : (s.putPinout cs).inputs = s.inputs := rfl
@[simp] theorem State.putPinout_outlen (cs : List Byte) : (s.putPinout cs).outlen = s.outlen := rfl
@[simp] theorem State.putPinout_blkout (cs : List Byte) : (s.putPinout cs).blkout = s.blkout := rfl
@[simp] theorem State.putPinout_acc (cs : List Byte) : (s.putPinout cs).acc = s.acc := rfl
@[simp] theorem State.putPinout_fielda (cs : List Byte) : (s.putPinout cs).fielda = s.fielda := rfl
@[simp] theorem State.putPinout_fieldaLen (cs : List Byte) :
    (s.putPinout cs).fieldaLen = s.fieldaLen := rfl
@[simp] theorem State.putPinout_fieldb (cs : List Byte) : (s.putPinout cs).fieldb = s.fieldb := rfl
@[simp] theorem State.putPinout_fieldbLen (cs : List Byte) :
    (s.putPinout cs).fieldbLen = s.fieldbLen := rfl
@[simp] theorem State.putPinout_pinout (cs : List Byte) : (s.putPinout cs).pinout = fit 16 cs := rfl
@[simp] theorem State.putPinout_pinoutLen (cs : List Byte) :
    (s.putPinout cs).pinoutLen = BitVec.ofNat 5 cs.length := rfl
@[simp] theorem State.putPinout_kx (cs : List Byte) : (s.putPinout cs).kx = s.kx := rfl
@[simp] theorem State.putPinout_latch (cs : List Byte) : (s.putPinout cs).latch = s.latch := rfl
@[simp] theorem State.putPinout_hostOps (cs : List Byte) :
    (s.putPinout cs).hostOps = s.hostOps := rfl
@[simp] theorem State.putPinout_reads (cs : List Byte) : (s.putPinout cs).reads = s.reads := rfl
@[simp] theorem State.putPinout_draws (cs : List Byte) : (s.putPinout cs).draws = s.draws := rfl

/-! ### State.putAcc -/

@[simp] theorem State.putAcc_cmd (v : Nat) : (s.putAcc v).cmd = s.cmd := rfl
@[simp] theorem State.putAcc_status (v : Nat) : (s.putAcc v).status = s.status := rfl
@[simp] theorem State.putAcc_errinfo (v : Nat) : (s.putAcc v).errinfo = s.errinfo := rfl
@[simp] theorem State.putAcc_inputs (v : Nat) : (s.putAcc v).inputs = s.inputs := rfl
@[simp] theorem State.putAcc_outlen (v : Nat) : (s.putAcc v).outlen = s.outlen := rfl
@[simp] theorem State.putAcc_blkout (v : Nat) : (s.putAcc v).blkout = s.blkout := rfl
@[simp] theorem State.putAcc_acc (v : Nat) : (s.putAcc v).acc = BitVec.ofNat 64 v := rfl
@[simp] theorem State.putAcc_fielda (v : Nat) : (s.putAcc v).fielda = s.fielda := rfl
@[simp] theorem State.putAcc_fieldaLen (v : Nat) : (s.putAcc v).fieldaLen = s.fieldaLen := rfl
@[simp] theorem State.putAcc_fieldb (v : Nat) : (s.putAcc v).fieldb = s.fieldb := rfl
@[simp] theorem State.putAcc_fieldbLen (v : Nat) : (s.putAcc v).fieldbLen = s.fieldbLen := rfl
@[simp] theorem State.putAcc_pinout (v : Nat) : (s.putAcc v).pinout = s.pinout := rfl
@[simp] theorem State.putAcc_pinoutLen (v : Nat) : (s.putAcc v).pinoutLen = s.pinoutLen := rfl
@[simp] theorem State.putAcc_kx (v : Nat) : (s.putAcc v).kx = s.kx := rfl
@[simp] theorem State.putAcc_latch (v : Nat) : (s.putAcc v).latch = s.latch := rfl
@[simp] theorem State.putAcc_hostOps (v : Nat) : (s.putAcc v).hostOps = s.hostOps := rfl
@[simp] theorem State.putAcc_reads (v : Nat) : (s.putAcc v).reads = s.reads := rfl
@[simp] theorem State.putAcc_draws (v : Nat) : (s.putAcc v).draws = s.draws := rfl

/-! ### State.putKx -/

@[simp] theorem State.putKx_cmd (x : Vector Byte 24) : (s.putKx x).cmd = s.cmd := rfl
@[simp] theorem State.putKx_status (x : Vector Byte 24) :
    (s.putKx x).status = { s.status with keyvalid := true } := rfl
@[simp] theorem State.putKx_errinfo (x : Vector Byte 24) : (s.putKx x).errinfo = s.errinfo := rfl
@[simp] theorem State.putKx_inputs (x : Vector Byte 24) : (s.putKx x).inputs = s.inputs := rfl
@[simp] theorem State.putKx_outlen (x : Vector Byte 24) : (s.putKx x).outlen = s.outlen := rfl
@[simp] theorem State.putKx_blkout (x : Vector Byte 24) : (s.putKx x).blkout = s.blkout := rfl
@[simp] theorem State.putKx_acc (x : Vector Byte 24) : (s.putKx x).acc = s.acc := rfl
@[simp] theorem State.putKx_fielda (x : Vector Byte 24) : (s.putKx x).fielda = s.fielda := rfl
@[simp] theorem State.putKx_fieldaLen (x : Vector Byte 24) :
    (s.putKx x).fieldaLen = s.fieldaLen := rfl
@[simp] theorem State.putKx_fieldb (x : Vector Byte 24) : (s.putKx x).fieldb = s.fieldb := rfl
@[simp] theorem State.putKx_fieldbLen (x : Vector Byte 24) :
    (s.putKx x).fieldbLen = s.fieldbLen := rfl
@[simp] theorem State.putKx_pinout (x : Vector Byte 24) : (s.putKx x).pinout = s.pinout := rfl
@[simp] theorem State.putKx_pinoutLen (x : Vector Byte 24) :
    (s.putKx x).pinoutLen = s.pinoutLen := rfl
@[simp] theorem State.putKx_kx (x : Vector Byte 24) : (s.putKx x).kx = x := rfl
@[simp] theorem State.putKx_latch (x : Vector Byte 24) : (s.putKx x).latch = s.latch := rfl
@[simp] theorem State.putKx_hostOps (x : Vector Byte 24) : (s.putKx x).hostOps = s.hostOps := rfl
@[simp] theorem State.putKx_reads (x : Vector Byte 24) : (s.putKx x).reads = s.reads := rfl
@[simp] theorem State.putKx_draws (x : Vector Byte 24) : (s.putKx x).draws = s.draws := rfl

/-! ### State.clearBlkout -/

@[simp] theorem State.clearBlkout_cmd : (s.clearBlkout).cmd = s.cmd := rfl
@[simp] theorem State.clearBlkout_status : (s.clearBlkout).status = s.status := rfl
@[simp] theorem State.clearBlkout_errinfo : (s.clearBlkout).errinfo = s.errinfo := rfl
@[simp] theorem State.clearBlkout_inputs : (s.clearBlkout).inputs = s.inputs := rfl
@[simp] theorem State.clearBlkout_outlen : (s.clearBlkout).outlen = 0 := rfl
@[simp] theorem State.clearBlkout_blkout : (s.clearBlkout).blkout = fit 8 [] := rfl
@[simp] theorem State.clearBlkout_acc : (s.clearBlkout).acc = s.acc := rfl
@[simp] theorem State.clearBlkout_fielda : (s.clearBlkout).fielda = s.fielda := rfl
@[simp] theorem State.clearBlkout_fieldaLen : (s.clearBlkout).fieldaLen = s.fieldaLen := rfl
@[simp] theorem State.clearBlkout_fieldb : (s.clearBlkout).fieldb = s.fieldb := rfl
@[simp] theorem State.clearBlkout_fieldbLen : (s.clearBlkout).fieldbLen = s.fieldbLen := rfl
@[simp] theorem State.clearBlkout_pinout : (s.clearBlkout).pinout = s.pinout := rfl
@[simp] theorem State.clearBlkout_pinoutLen : (s.clearBlkout).pinoutLen = s.pinoutLen := rfl
@[simp] theorem State.clearBlkout_kx : (s.clearBlkout).kx = s.kx := rfl
@[simp] theorem State.clearBlkout_latch : (s.clearBlkout).latch = s.latch := rfl
@[simp] theorem State.clearBlkout_hostOps : (s.clearBlkout).hostOps = s.hostOps := rfl
@[simp] theorem State.clearBlkout_reads : (s.clearBlkout).reads = s.reads := rfl
@[simp] theorem State.clearBlkout_draws : (s.clearBlkout).draws = s.draws := rfl

/-! ### State.clearFielda -/

@[simp] theorem State.clearFielda_cmd : (s.clearFielda).cmd = s.cmd := rfl
@[simp] theorem State.clearFielda_status : (s.clearFielda).status = s.status := rfl
@[simp] theorem State.clearFielda_errinfo : (s.clearFielda).errinfo = s.errinfo := rfl
@[simp] theorem State.clearFielda_inputs : (s.clearFielda).inputs = s.inputs := rfl
@[simp] theorem State.clearFielda_outlen : (s.clearFielda).outlen = s.outlen := rfl
@[simp] theorem State.clearFielda_blkout : (s.clearFielda).blkout = s.blkout := rfl
@[simp] theorem State.clearFielda_acc : (s.clearFielda).acc = s.acc := rfl
@[simp] theorem State.clearFielda_fielda : (s.clearFielda).fielda = fit 16 [] := rfl
@[simp] theorem State.clearFielda_fieldaLen : (s.clearFielda).fieldaLen = 0 := rfl
@[simp] theorem State.clearFielda_fieldb : (s.clearFielda).fieldb = s.fieldb := rfl
@[simp] theorem State.clearFielda_fieldbLen : (s.clearFielda).fieldbLen = s.fieldbLen := rfl
@[simp] theorem State.clearFielda_pinout : (s.clearFielda).pinout = s.pinout := rfl
@[simp] theorem State.clearFielda_pinoutLen : (s.clearFielda).pinoutLen = s.pinoutLen := rfl
@[simp] theorem State.clearFielda_kx : (s.clearFielda).kx = s.kx := rfl
@[simp] theorem State.clearFielda_latch : (s.clearFielda).latch = s.latch := rfl
@[simp] theorem State.clearFielda_hostOps : (s.clearFielda).hostOps = s.hostOps := rfl
@[simp] theorem State.clearFielda_reads : (s.clearFielda).reads = s.reads := rfl
@[simp] theorem State.clearFielda_draws : (s.clearFielda).draws = s.draws := rfl

/-! ### State.clearFieldb -/

@[simp] theorem State.clearFieldb_cmd : (s.clearFieldb).cmd = s.cmd := rfl
@[simp] theorem State.clearFieldb_status : (s.clearFieldb).status = s.status := rfl
@[simp] theorem State.clearFieldb_errinfo : (s.clearFieldb).errinfo = s.errinfo := rfl
@[simp] theorem State.clearFieldb_inputs : (s.clearFieldb).inputs = s.inputs := rfl
@[simp] theorem State.clearFieldb_outlen : (s.clearFieldb).outlen = s.outlen := rfl
@[simp] theorem State.clearFieldb_blkout : (s.clearFieldb).blkout = s.blkout := rfl
@[simp] theorem State.clearFieldb_acc : (s.clearFieldb).acc = s.acc := rfl
@[simp] theorem State.clearFieldb_fielda : (s.clearFieldb).fielda = s.fielda := rfl
@[simp] theorem State.clearFieldb_fieldaLen : (s.clearFieldb).fieldaLen = s.fieldaLen := rfl
@[simp] theorem State.clearFieldb_fieldb : (s.clearFieldb).fieldb = fit 16 [] := rfl
@[simp] theorem State.clearFieldb_fieldbLen : (s.clearFieldb).fieldbLen = 0 := rfl
@[simp] theorem State.clearFieldb_pinout : (s.clearFieldb).pinout = s.pinout := rfl
@[simp] theorem State.clearFieldb_pinoutLen : (s.clearFieldb).pinoutLen = s.pinoutLen := rfl
@[simp] theorem State.clearFieldb_kx : (s.clearFieldb).kx = s.kx := rfl
@[simp] theorem State.clearFieldb_latch : (s.clearFieldb).latch = s.latch := rfl
@[simp] theorem State.clearFieldb_hostOps : (s.clearFieldb).hostOps = s.hostOps := rfl
@[simp] theorem State.clearFieldb_reads : (s.clearFieldb).reads = s.reads := rfl
@[simp] theorem State.clearFieldb_draws : (s.clearFieldb).draws = s.draws := rfl

/-! ### State.clearPinout -/

@[simp] theorem State.clearPinout_cmd : (s.clearPinout).cmd = s.cmd := rfl
@[simp] theorem State.clearPinout_status : (s.clearPinout).status = s.status := rfl
@[simp] theorem State.clearPinout_errinfo : (s.clearPinout).errinfo = s.errinfo := rfl
@[simp] theorem State.clearPinout_inputs : (s.clearPinout).inputs = s.inputs := rfl
@[simp] theorem State.clearPinout_outlen : (s.clearPinout).outlen = s.outlen := rfl
@[simp] theorem State.clearPinout_blkout : (s.clearPinout).blkout = s.blkout := rfl
@[simp] theorem State.clearPinout_acc : (s.clearPinout).acc = s.acc := rfl
@[simp] theorem State.clearPinout_fielda : (s.clearPinout).fielda = s.fielda := rfl
@[simp] theorem State.clearPinout_fieldaLen : (s.clearPinout).fieldaLen = s.fieldaLen := rfl
@[simp] theorem State.clearPinout_fieldb : (s.clearPinout).fieldb = s.fieldb := rfl
@[simp] theorem State.clearPinout_fieldbLen : (s.clearPinout).fieldbLen = s.fieldbLen := rfl
@[simp] theorem State.clearPinout_pinout : (s.clearPinout).pinout = fit 16 [] := rfl
@[simp] theorem State.clearPinout_pinoutLen : (s.clearPinout).pinoutLen = 0 := rfl
@[simp] theorem State.clearPinout_kx : (s.clearPinout).kx = s.kx := rfl
@[simp] theorem State.clearPinout_latch : (s.clearPinout).latch = s.latch := rfl
@[simp] theorem State.clearPinout_hostOps : (s.clearPinout).hostOps = s.hostOps := rfl
@[simp] theorem State.clearPinout_reads : (s.clearPinout).reads = s.reads := rfl
@[simp] theorem State.clearPinout_draws : (s.clearPinout).draws = s.draws := rfl

/-! ### State.clearAcc -/

@[simp] theorem State.clearAcc_cmd : (s.clearAcc).cmd = s.cmd := rfl
@[simp] theorem State.clearAcc_status : (s.clearAcc).status = s.status := rfl
@[simp] theorem State.clearAcc_errinfo : (s.clearAcc).errinfo = s.errinfo := rfl
@[simp] theorem State.clearAcc_inputs : (s.clearAcc).inputs = s.inputs := rfl
@[simp] theorem State.clearAcc_outlen : (s.clearAcc).outlen = s.outlen := rfl
@[simp] theorem State.clearAcc_blkout : (s.clearAcc).blkout = s.blkout := rfl
@[simp] theorem State.clearAcc_acc : (s.clearAcc).acc = 0 := rfl
@[simp] theorem State.clearAcc_fielda : (s.clearAcc).fielda = s.fielda := rfl
@[simp] theorem State.clearAcc_fieldaLen : (s.clearAcc).fieldaLen = s.fieldaLen := rfl
@[simp] theorem State.clearAcc_fieldb : (s.clearAcc).fieldb = s.fieldb := rfl
@[simp] theorem State.clearAcc_fieldbLen : (s.clearAcc).fieldbLen = s.fieldbLen := rfl
@[simp] theorem State.clearAcc_pinout : (s.clearAcc).pinout = s.pinout := rfl
@[simp] theorem State.clearAcc_pinoutLen : (s.clearAcc).pinoutLen = s.pinoutLen := rfl
@[simp] theorem State.clearAcc_kx : (s.clearAcc).kx = s.kx := rfl
@[simp] theorem State.clearAcc_latch : (s.clearAcc).latch = s.latch := rfl
@[simp] theorem State.clearAcc_hostOps : (s.clearAcc).hostOps = s.hostOps := rfl
@[simp] theorem State.clearAcc_reads : (s.clearAcc).reads = s.reads := rfl
@[simp] theorem State.clearAcc_draws : (s.clearAcc).draws = s.draws := rfl

/-! ### State.clearKx -/

@[simp] theorem State.clearKx_cmd : (s.clearKx).cmd = s.cmd := rfl
@[simp] theorem State.clearKx_status :
    (s.clearKx).status = { s.status with keyvalid := false } := rfl
@[simp] theorem State.clearKx_errinfo : (s.clearKx).errinfo = s.errinfo := rfl
@[simp] theorem State.clearKx_inputs : (s.clearKx).inputs = s.inputs := rfl
@[simp] theorem State.clearKx_outlen : (s.clearKx).outlen = s.outlen := rfl
@[simp] theorem State.clearKx_blkout : (s.clearKx).blkout = s.blkout := rfl
@[simp] theorem State.clearKx_acc : (s.clearKx).acc = s.acc := rfl
@[simp] theorem State.clearKx_fielda : (s.clearKx).fielda = s.fielda := rfl
@[simp] theorem State.clearKx_fieldaLen : (s.clearKx).fieldaLen = s.fieldaLen := rfl
@[simp] theorem State.clearKx_fieldb : (s.clearKx).fieldb = s.fieldb := rfl
@[simp] theorem State.clearKx_fieldbLen : (s.clearKx).fieldbLen = s.fieldbLen := rfl
@[simp] theorem State.clearKx_pinout : (s.clearKx).pinout = s.pinout := rfl
@[simp] theorem State.clearKx_pinoutLen : (s.clearKx).pinoutLen = s.pinoutLen := rfl
@[simp] theorem State.clearKx_kx : (s.clearKx).kx = Vector.replicate 24 0 := rfl
@[simp] theorem State.clearKx_latch : (s.clearKx).latch = s.latch := rfl
@[simp] theorem State.clearKx_hostOps : (s.clearKx).hostOps = s.hostOps := rfl
@[simp] theorem State.clearKx_reads : (s.clearKx).reads = s.reads := rfl
@[simp] theorem State.clearKx_draws : (s.clearKx).draws = s.draws := rfl

/-! ### State.resetBlock -/

@[simp] theorem State.resetBlock_cmd : (s.resetBlock).cmd = State.reset.cmd := rfl
@[simp] theorem State.resetBlock_status : (s.resetBlock).status = State.reset.status := rfl
@[simp] theorem State.resetBlock_errinfo : (s.resetBlock).errinfo = State.reset.errinfo := rfl
@[simp] theorem State.resetBlock_inputs : (s.resetBlock).inputs = State.reset.inputs := rfl
@[simp] theorem State.resetBlock_outlen : (s.resetBlock).outlen = State.reset.outlen := rfl
@[simp] theorem State.resetBlock_blkout : (s.resetBlock).blkout = State.reset.blkout := rfl
@[simp] theorem State.resetBlock_acc : (s.resetBlock).acc = State.reset.acc := rfl
@[simp] theorem State.resetBlock_fielda : (s.resetBlock).fielda = State.reset.fielda := rfl
@[simp] theorem State.resetBlock_fieldaLen : (s.resetBlock).fieldaLen = State.reset.fieldaLen := rfl
@[simp] theorem State.resetBlock_fieldb : (s.resetBlock).fieldb = State.reset.fieldb := rfl
@[simp] theorem State.resetBlock_fieldbLen : (s.resetBlock).fieldbLen = State.reset.fieldbLen := rfl
@[simp] theorem State.resetBlock_pinout : (s.resetBlock).pinout = State.reset.pinout := rfl
@[simp] theorem State.resetBlock_pinoutLen : (s.resetBlock).pinoutLen = State.reset.pinoutLen := rfl
@[simp] theorem State.resetBlock_kx : (s.resetBlock).kx = State.reset.kx := rfl
@[simp] theorem State.resetBlock_latch : (s.resetBlock).latch = State.reset.latch := rfl
@[simp] theorem State.resetBlock_hostOps : (s.resetBlock).hostOps = s.hostOps := rfl
@[simp] theorem State.resetBlock_reads : (s.resetBlock).reads = s.reads := rfl
@[simp] theorem State.resetBlock_draws : (s.resetBlock).draws = s.draws := rfl

/-! ### State.tick -/

@[simp] theorem State.tick_cmd (p : Pending) : (s.tick p).cmd = s.cmd := rfl
@[simp] theorem State.tick_status (p : Pending) : (s.tick p).status = s.status := rfl
@[simp] theorem State.tick_errinfo (p : Pending) : (s.tick p).errinfo = s.errinfo := rfl
@[simp] theorem State.tick_inputs (p : Pending) : (s.tick p).inputs = s.inputs := rfl
@[simp] theorem State.tick_outlen (p : Pending) : (s.tick p).outlen = s.outlen := rfl
@[simp] theorem State.tick_blkout (p : Pending) : (s.tick p).blkout = s.blkout := rfl
@[simp] theorem State.tick_acc (p : Pending) : (s.tick p).acc = s.acc := rfl
@[simp] theorem State.tick_fielda (p : Pending) : (s.tick p).fielda = s.fielda := rfl
@[simp] theorem State.tick_fieldaLen (p : Pending) : (s.tick p).fieldaLen = s.fieldaLen := rfl
@[simp] theorem State.tick_fieldb (p : Pending) : (s.tick p).fieldb = s.fieldb := rfl
@[simp] theorem State.tick_fieldbLen (p : Pending) : (s.tick p).fieldbLen = s.fieldbLen := rfl
@[simp] theorem State.tick_pinout (p : Pending) : (s.tick p).pinout = s.pinout := rfl
@[simp] theorem State.tick_pinoutLen (p : Pending) : (s.tick p).pinoutLen = s.pinoutLen := rfl
@[simp] theorem State.tick_kx (p : Pending) : (s.tick p).kx = s.kx := rfl
@[simp] theorem State.tick_latch (p : Pending) :
    (s.tick p).latch = some { p with wait := p.wait - 1 } := rfl
@[simp] theorem State.tick_hostOps (p : Pending) : (s.tick p).hostOps = s.hostOps := rfl
@[simp] theorem State.tick_reads (p : Pending) : (s.tick p).reads = s.reads := rfl
@[simp] theorem State.tick_draws (p : Pending) : (s.tick p).draws = s.draws := rfl

/-! ### State.rejectWord -/

@[simp] theorem State.rejectWord_cmd (w : Word) : (s.rejectWord w).cmd = s.cmd := rfl
@[simp] theorem State.rejectWord_status (w : Word) :
    (s.rejectWord w).status = s.status.failed (.illegalCommand w) := rfl
@[simp] theorem State.rejectWord_errinfo (w : Word) : (s.rejectWord w).errinfo = w := rfl
@[simp] theorem State.rejectWord_inputs (w : Word) : (s.rejectWord w).inputs = s.inputs := rfl
@[simp] theorem State.rejectWord_outlen (w : Word) : (s.rejectWord w).outlen = s.outlen := rfl
@[simp] theorem State.rejectWord_blkout (w : Word) : (s.rejectWord w).blkout = s.blkout := rfl
@[simp] theorem State.rejectWord_acc (w : Word) : (s.rejectWord w).acc = s.acc := rfl
@[simp] theorem State.rejectWord_fielda (w : Word) : (s.rejectWord w).fielda = s.fielda := rfl
@[simp] theorem State.rejectWord_fieldaLen (w : Word) :
    (s.rejectWord w).fieldaLen = s.fieldaLen := rfl
@[simp] theorem State.rejectWord_fieldb (w : Word) : (s.rejectWord w).fieldb = s.fieldb := rfl
@[simp] theorem State.rejectWord_fieldbLen (w : Word) :
    (s.rejectWord w).fieldbLen = s.fieldbLen := rfl
@[simp] theorem State.rejectWord_pinout (w : Word) : (s.rejectWord w).pinout = s.pinout := rfl
@[simp] theorem State.rejectWord_pinoutLen (w : Word) :
    (s.rejectWord w).pinoutLen = s.pinoutLen := rfl
@[simp] theorem State.rejectWord_kx (w : Word) : (s.rejectWord w).kx = s.kx := rfl
@[simp] theorem State.rejectWord_latch (w : Word) : (s.rejectWord w).latch = none := rfl
@[simp] theorem State.rejectWord_hostOps (w : Word) : (s.rejectWord w).hostOps = s.hostOps := rfl
@[simp] theorem State.rejectWord_reads (w : Word) : (s.rejectWord w).reads = s.reads := rfl
@[simp] theorem State.rejectWord_draws (w : Word) : (s.rejectWord w).draws = s.draws := rfl

end Sys2Proof.Machine
end

