-- ==== Sys2Proof/Laws/Bytes.lean ====
section
/-! SUPPORT. Byte arrays, bus words and blocks: what `fit`, `lanes`, `setLanes`, `blockOfBytes` and
`bytesOfBlock` do, said once. -/

namespace Sys2Proof.Machine

/-! ### fit -/

@[simp] theorem toList_fit (n : Nat) (bs : List Byte) :
    (fit n bs).toList = bs.take n ++ List.replicate (n - bs.length) 0#8 := rfl

theorem getElem_fit (n : Nat) (bs : List Byte) (i : Nat) (h : i < n) :
    (fit n bs)[i] = bs.getD i 0#8 := by
  rw [← Vector.getElem_toList (by rw [Vector.length_toList]; exact h)]
  simp only [toList_fit, List.getElem_append, List.length_take, List.getElem_take,
    List.getElem_replicate, List.getD_eq_getElem?_getD]
  split
  · rw [List.getElem?_eq_getElem (by omega)]; rfl
  · rw [List.getElem?_eq_none (by omega)]; rfl

theorem fit_nil (n : Nat) : fit n [] = Vector.replicate n 0#8 := by
  ext i h
  simp [getElem_fit]

theorem fit_toList {n : Nat} (v : Vector Byte n) : fit n v.toList = v := by
  ext i h
  simp [getElem_fit, h]

theorem toList_fit_of_length {n : Nat} {bs : List Byte} (h : bs.length = n) :
    (fit n bs).toList = bs := by
  subst h; simp

theorem tailClear_fit (n : Nat) (bs : List Byte) (m : Nat) (h : bs.length ≤ m) :
    tailClear (fit n bs) m := by
  intro i hi hm
  rw [getElem_fit, List.getD_eq_getElem?_getD, List.getElem?_eq_none (by omega)]
  rfl

/-! ### Bus words -/

theorem byteOfWord_wordOfBytes (b0 b1 b2 b3 : Byte) :
    byteOfWord (wordOfBytes b0 b1 b2 b3) 0 = b0 ∧ byteOfWord (wordOfBytes b0 b1 b2 b3) 1 = b1 ∧
    byteOfWord (wordOfBytes b0 b1 b2 b3) 2 = b2 ∧ byteOfWord (wordOfBytes b0 b1 b2 b3) 3 = b3 := by
  refine ⟨?_, ?_, ?_, ?_⟩ <;>
  · ext i hi
    simp only [byteOfWord, wordOfBytes, BitVec.getElem_extractLsb', BitVec.getLsbD_append]
    interval_cases i <;> simp

theorem wordOfBytes_byteOfWord (w : Word) :
    wordOfBytes (byteOfWord w 0) (byteOfWord w 1) (byteOfWord w 2) (byteOfWord w 3) = w := by
  apply BitVec.eq_of_getLsbD_eq
  intro i hi
  simp only [wordOfBytes, byteOfWord, BitVec.getLsbD_append, BitVec.getLsbD_extractLsb']
  interval_cases i <;> simp

theorem getElem_setLanes {n : Nat} (v : Vector Byte n) (k : Nat) (w : Word) (i : Nat) (h : i < n) :
    (setLanes v k w)[i] = if k ≤ i ∧ i < k + 4 then byteOfWord w (i - k) else v[i] := by
  simp only [setLanes, Vector.getElem_setIfInBounds]
  by_cases h0 : k = i
  · subst h0; simp
  by_cases h1 : k + 1 = i
  · subst h1; simp
  by_cases h2 : k + 2 = i
  · subst h2; simp
  by_cases h3 : k + 3 = i
  · subst h3; simp
  have : ¬ (k ≤ i ∧ i < k + 4) := by omega
  simp [h0, h1, h2, h3, this]

theorem byteOfWord_lanes {n : Nat} (v : Vector Byte n) (k j : Nat) (hj : j < 4) (h : k + j < n) :
    byteOfWord (lanes v k) j = v[k + j] := by
  obtain ⟨e0, e1, e2, e3⟩ := byteOfWord_wordOfBytes (v.toList.getD k 0) (v.toList.getD (k + 1) 0)
    (v.toList.getD (k + 2) 0) (v.toList.getD (k + 3) 0)
  have hv : v.toList.getD (k + j) 0 = v[k + j] := by simp [h]
  interval_cases j <;> simp_all [lanes]

theorem lanes_setLanes {n : Nat} (v : Vector Byte n) (k : Nat) (w : Word) (h : k + 4 ≤ n) :
    lanes (setLanes v k w) k = w := by
  have e : ∀ j, j < 4 → (setLanes v k w).toList.getD (k + j) 0 = byteOfWord w j := by
    intro j hj
    have : (setLanes v k w).toList.getD (k + j) 0 = (setLanes v k w)[k + j]'(by omega) := by
      simp [show k + j < n by omega]
    rw [this, getElem_setLanes]
    simp [hj]
  rw [lanes, e 1 (by omega), e 2 (by omega), e 3 (by omega)]
  have := e 0 (by omega)
  simp only [Nat.add_zero] at this
  rw [this, wordOfBytes_byteOfWord]

theorem lanes_setLanes_of_disjoint {n : Nat} (v : Vector Byte n) (k k' : Nat) (w : Word)
    (h : k' + 4 ≤ k ∨ k + 4 ≤ k') : lanes (setLanes v k w) k' = lanes v k' := by
  have e : ∀ j, j < 4 → (setLanes v k w).toList.getD (k' + j) 0 = v.toList.getD (k' + j) 0 := by
    intro j hj
    by_cases hn : k' + j < n
    · have h1 : (setLanes v k w).toList.getD (k' + j) 0 = (setLanes v k w)[k' + j] := by simp [hn]
      have h2 : v.toList.getD (k' + j) 0 = v[k' + j] := by simp [hn]
      rw [h1, h2, getElem_setLanes, if_neg (by omega)]
    · simp [hn]
  have e0 := e 0 (by omega)
  simp only [Nat.add_zero] at e0
  rw [lanes, lanes, e0, e 1 (by omega), e 2 (by omega), e 3 (by omega)]

/-! ### Blocks -/

@[simp] theorem length_bytesOfBlock (x : Block) : (bytesOfBlock x).length = 8 := rfl

theorem toNat_append_byte {m : Nat} (x : BitVec m) (b : Byte) :
    (x ++ b).toNat = x.toNat * 256 + b.toNat := by
  rw [BitVec.toNat_append, ← Nat.shiftLeft_add_eq_or_of_lt b.isLt, Nat.shiftLeft_eq]

theorem xor_append_byte {m : Nat} (x y : BitVec m) (a b : Byte) :
    (x ^^^ y) ++ (a ^^^ b) = (x ++ a) ^^^ (y ++ b) := by
  ext i hi
  simp only [BitVec.getElem_append, BitVec.getElem_xor]
  split <;> rfl

theorem blockOfBytes_eight (b0 b1 b2 b3 b4 b5 b6 b7 : Byte) :
    blockOfBytes [b0, b1, b2, b3, b4, b5, b6, b7] =
      b0 ++ b1 ++ b2 ++ b3 ++ b4 ++ b5 ++ b6 ++ b7 := by
  apply BitVec.eq_of_toNat_eq
  simp only [blockOfBytes, List.foldl_cons, List.foldl_nil, BitVec.toNat_ofNat, toNat_append_byte]
  have h0 := b0.isLt
  omega

theorem blockOfBytes_bytesOfBlock (x : Block) : blockOfBytes (bytesOfBlock x) = x := by
  rw [bytesOfBlock, blockOfBytes_eight]
  ext i hi
  simp only [BitVec.getElem_append, BitVec.getElem_extractLsb']
  interval_cases i <;> simp

theorem bytesOfBlock_blockOfBytes {bs : List Byte} (h : bs.length = 8) :
    bytesOfBlock (blockOfBytes bs) = bs := by
  match bs, h with
  | [b0, b1, b2, b3, b4, b5, b6, b7], _ =>
    rw [blockOfBytes_eight, bytesOfBlock]
    simp only [List.cons.injEq, and_true]
    refine ⟨?_, ?_, ?_, ?_, ?_, ?_, ?_, ?_⟩ <;>
    · ext i hi
      simp only [BitVec.getElem_extractLsb', BitVec.getLsbD_append]
      interval_cases i <;> simp

theorem blockOfBytes_zipWith_xor {a b : List Byte} (ha : a.length = 8) (hb : b.length = 8) :
    blockOfBytes (List.zipWith (· ^^^ ·) a b) = blockOfBytes a ^^^ blockOfBytes b := by
  match a, ha, b, hb with
  | [a0, a1, a2, a3, a4, a5, a6, a7], _, [b0, b1, b2, b3, b4, b5, b6, b7], _ =>
    simp only [List.zipWith_cons_cons, List.zipWith_nil_right, blockOfBytes_eight, xor_append_byte]

end Sys2Proof.Machine
end

