-- ==== Sys2Proof/Laws/Des.lean ====
section
/-! SUPPORT. The DES engine: the bits of `permute`, the length of the key schedule, and the rounds
over a concatenation of round keys. -/

namespace Sys2Proof.Machine

/-- The value `permute` folds: DES bit j of the table from the most significant end. -/
theorem testBit_foldl_permute {n : Nat} (v : BitVec n) (table : List Nat) (acc i : Nat) :
    (table.foldl (fun acc t => 2 * acc + (v.getLsbD (n - t)).toNat) acc).testBit i =
      if i < table.length then v.getLsbD (n - table.getD (table.length - 1 - i) 0)
      else acc.testBit (i - table.length) := by
  induction table generalizing acc with
  | nil => simp
  | cons t ts ih =>
    rw [List.foldl_cons, ih]
    by_cases h : i < ts.length
    · rw [if_pos h, if_pos (by simp; omega)]
      congr 2
      have : (t :: ts).length - 1 - i = (ts.length - 1 - i) + 1 := by simp; omega
      rw [this]; simp
    · rw [if_neg h]
      by_cases h' : i = ts.length
      · subst h'
        rw [if_pos (by simp), Nat.sub_self]
        have : (t :: ts).length - 1 - ts.length = 0 := by simp
        rw [this]
        simp only [List.getD_cons_zero, Nat.testBit_zero]
        cases v.getLsbD (n - t) <;> simp <;> omega
      · rw [if_neg (by simp; omega)]
        have : i - ts.length = (i - (t :: ts).length) + 1 := by simp; omega
        rw [this, Nat.testBit_add_one]
        congr 1
        cases v.getLsbD (n - t) <;> simp <;> omega

/-- Bit i of a permutation: DES bit j = m - i of the result is DES bit T[j] of `v` (41_des_engine
R110). -/
theorem getLsbD_permute {m n : Nat} (table : List Nat) (v : BitVec n) (hm : table.length = m)
    (i : Nat) (hi : i < m) :
    (permute m table v).getLsbD i = v.getLsbD (n - table.getD (m - 1 - i) 0) := by
  rw [permute, BitVec.getLsbD_ofNat, testBit_foldl_permute]
  subst hm
  simp [hi]

theorem length_tableIP : tableIP.length = 64 := rfl
theorem length_tableFP : tableFP.length = 64 := rfl
theorem length_tableE : tableE.length = 48 := rfl
theorem length_tableP : tableP.length = 32 := rfl
theorem length_tablePC1 : tablePC1.length = 56 := rfl
theorem length_tablePC2 : tablePC2.length = 48 := rfl

/-! ### The halves of a block -/

theorem hiHalf_append (a b : BitVec 32) : (a ++ b).extractLsb' 32 32 = a := by
  apply BitVec.eq_of_getLsbD_eq
  intro i hi
  rw [BitVec.getLsbD_extractLsb', BitVec.getLsbD_append]
  simp [hi]

theorem loHalf_append (a b : BitVec 32) : (a ++ b).extractLsb' 0 32 = b := by
  apply BitVec.eq_of_getLsbD_eq
  intro i hi
  rw [BitVec.getLsbD_extractLsb', BitVec.getLsbD_append]
  simp [hi]

theorem append_halves (v : Block) : v.extractLsb' 32 32 ++ v.extractLsb' 0 32 = v := by
  apply BitVec.eq_of_getLsbD_eq
  intro i hi
  simp only [BitVec.getLsbD_append, BitVec.getLsbD_extractLsb']
  split
  · simp [*]
  · simp [show i - 32 < 32 by omega, show 32 + (i - 32) = i by omega]

/-! ### Key schedule and rounds -/

theorem length_scheduleFrom (ks : List Nat) (c d : BitVec 28) :
    (scheduleFrom ks c d).length = ks.length := by
  induction ks generalizing c d with
  | nil => rfl
  | cons k ks ih => simp [scheduleFrom, ih]

@[simp] theorem length_schedule (k : Block) : (schedule k).length = 16 := by
  rw [schedule, length_scheduleFrom]; rfl

theorem rounds_append (ks ks' : List (BitVec 48)) (l r : BitVec 32) :
    rounds (ks ++ ks') l r = rounds ks' (rounds ks l r).1 (rounds ks l r).2 := by
  induction ks generalizing l r with
  | nil => rfl
  | cons k ks ih => simp [rounds, ih]

end Sys2Proof.Machine
end

