-- ==== Sys2Proof/Laws/Ops.lean ====
section
/-! SUPPORT. What each shared operation can do, said once: the outcome of a command, a host access, a
host step and a step of the machine. -/

namespace Sys2Proof.Machine

variable {s t : State}

/-! ### The outcome of a command -/

theorem complete_ok {α : Type} {r : Except CmdError α} {a : α} (h : r = .ok a)
    (store : State → α → State) (clear : State → State) :
    s.complete r store clear = (store s a).succeed := by
  subst h; rfl

theorem complete_error {α : Type} {r : Except CmdError α} {e : CmdError} (h : r = .error e)
    (store : State → α → State) (clear : State → State) :
    s.complete r store clear = (clear s).fail e := by
  subst h; rfl

/-- A completed command either succeeded with a value or failed with an error. -/
theorem complete_cases {α : Type} (r : Except CmdError α) (store : State → α → State)
    (clear : State → State) :
    (∃ a, r = .ok a ∧ s.complete r store clear = (store s a).succeed) ∨
    (∃ e, r = .error e ∧ s.complete r store clear = (clear s).fail e) := by
  cases r with
  | ok a => exact .inl ⟨a, rfl, rfl⟩
  | error e => exact .inr ⟨e, rfl, rfl⟩

theorem clearBlkout_eq : s.clearBlkout = s.cleared .blkout := by
  simp only [State.clearBlkout, State.putBlkout, State.cleared, fit_nil]; rfl

theorem clearFielda_eq : s.clearFielda = s.cleared .fielda := by
  simp only [State.clearFielda, State.putFielda, State.cleared, fit_nil]; rfl

theorem clearFieldb_eq : s.clearFieldb = s.cleared .fieldb := by
  simp only [State.clearFieldb, State.putFieldb, State.cleared, fit_nil]; rfl

theorem clearPinout_eq : s.clearPinout = s.cleared .pinout := by
  simp only [State.clearPinout, State.putPinout, State.cleared, fit_nil]; rfl

theorem clearAcc_eq : s.clearAcc = s.cleared .acc := rfl

theorem clearKx_eq : s.clearKx = s.cleared .key := rfl

theorem fail_cleared (d : Dest) (e : CmdError) :
    (s.cleared d).fail e = s.failedWith d e.code e.info := by
  cases d <;> rfl

/-- A failed command is `failedWith` its destination, the code and the value of its error. -/
theorem fail_clear_eq (e : CmdError) :
    s.clearBlkout.fail e = s.failedWith .blkout e.code e.info ∧
    s.clearFielda.fail e = s.failedWith .fielda e.code e.info ∧
    s.clearFieldb.fail e = s.failedWith .fieldb e.code e.info ∧
    s.clearPinout.fail e = s.failedWith .pinout e.code e.info ∧
    s.clearAcc.fail e = s.failedWith .acc e.code e.info ∧
    s.clearKx.fail e = s.failedWith .key e.code e.info := by
  simp only [clearBlkout_eq, clearFielda_eq, clearFieldb_eq, clearPinout_eq, clearAcc_eq,
    clearKx_eq, fail_cleared, and_self]

/-! ### Host accesses -/

theorem access_offset {at_ : BusAddr} {off : Nat} (h : at_.offset = some off) (width : Nat)
    (act : Nat → State) :
    State.access at_ width act =
      if width = 4 ∧ off % 4 = 0 then .next (act off) else .fault (.busError off width) := by
  simp [State.access, h]

theorem access_outside {at_ : BusAddr} (h : at_.offset = none) (width : Nat) (act : Nat → State) :
    State.access at_ width act = .refused (.outsideWindow at_) := by
  simp [State.access, h]

theorem access_next {at_ : BusAddr} {width : Nat} {act : Nat → State}
    (h : State.access at_ width act = .next t) :
    ∃ off, at_.offset = some off ∧ width = 4 ∧ off % 4 = 0 ∧ t = act off := by
  cases ho : at_.offset with
  | none => rw [access_outside ho] at h; cases h
  | some off =>
    rw [access_offset ho] at h
    split at h
    · exact ⟨off, rfl, ‹_ ∧ _›.1, ‹_ ∧ _›.2, by cases h; rfl⟩
    · cases h

theorem offset_lt {at_ : BusAddr} {off : Nat} (h : at_.offset = some off) : off < 0x100 := by
  cases at_ with
  | window o => simp only [BusAddr.offset] at h; split at h <;> cases h; assumption
  | bus a =>
    simp only [BusAddr.offset] at h
    split at h <;> cases h
    have := ‹Config.base ≤ a ∧ _›
    simp only [Config.windowBytes] at this
    omega

theorem ite_ne_cmd {c : Prop} [Decidable c] {a b : Loc} (ha : a ≠ .cmd) (hb : b ≠ .cmd) :
    (if c then a else b) ≠ .cmd := by
  split <;> assumption

theorem locate_eq_cmd {off : Nat} : locate off = .cmd ↔ off < 4 := by
  constructor
  · intro h
    by_contra hn
    rw [locate, if_neg hn] at h
    exact absurd h (by repeat' (first | apply ite_ne_cmd | exact Loc.noConfusion))
  · intro h
    rw [locate, if_pos h]

theorem writeWindow_cmd (w : Word) : s.writeWindow 0 w = s.writeCmd w := by
  rw [State.writeWindow, if_pos (locate_eq_cmd.2 (by omega))]

theorem writeWindow_of_ne {off : Nat} (h : 4 ≤ off) (v : Word) :
    s.writeWindow off v = { s with inputs := (locate off).store s.inputs v } := by
  rw [State.writeWindow, if_neg (fun e => by have := locate_eq_cmd.1 e; omega)]

theorem writeCmd_busy (h : s.status.busy = true) (w : Word) : s.writeCmd w = s.overrun := by
  rw [State.writeCmd, if_pos h]

theorem writeCmd_idle (h : s.status.busy = false) (w : Word) :
    s.writeCmd w = { s.issue w (Config.latency s.draws) with draws := s.draws + 1 } := by
  rw [State.writeCmd, if_neg (by simp [h])]

/-- All a host step can do when it answers a next state. -/
theorem hostStep_cases (h : s.hostStep = .next t) :
    (s.hostOps = [] ∧ t = s) ∨
    (∃ rest, s.hostOps = .poll :: rest ∧ s.status.busy = true ∧ t = s) ∨
    (∃ rest, s.hostOps = .poll :: rest ∧ s.status.busy = false ∧
      t = { s with hostOps := rest, reads := s.status.toWord :: s.reads }) ∨
    (∃ at_ off rest, s.hostOps = .rd at_ 4 :: rest ∧ at_.offset = some off ∧ off % 4 = 0 ∧
      t = { s with hostOps := rest, reads := s.readWindow off :: s.reads }) ∨
    (∃ at_ w rest, s.hostOps = .wr at_ 4 w :: rest ∧ at_.offset = some 0 ∧
      s.status.busy = true ∧ t = { s with hostOps := rest }.overrun) ∨
    (∃ at_ w rest, s.hostOps = .wr at_ 4 w :: rest ∧ at_.offset = some 0 ∧
      s.status.busy = false ∧
      t = { s.issue w (Config.latency s.draws) with hostOps := rest, draws := s.draws + 1 }) ∨
    (∃ at_ off v rest, s.hostOps = .wr at_ 4 v :: rest ∧ at_.offset = some off ∧ off % 4 = 0 ∧
      4 ≤ off ∧ t = { s with hostOps := rest, inputs := (locate off).store s.inputs v }) ∨
    (∃ rest, s.hostOps = .assertReset :: rest ∧ t = { s with hostOps := rest }.resetBlock) := by
  unfold State.hostStep at h
  split at h
  · cases h; exact .inl ⟨‹_›, rfl⟩
  · rename_i rest ho
    split at h
    · cases h; exact .inr (.inl ⟨rest, ho, ‹_›, rfl⟩)
    · cases h; exact .inr (.inr (.inl ⟨rest, ho, Bool.eq_false_iff.2 ‹_›, rfl⟩))
  · rename_i op rest hp ho
    cases op with
    | rd a w =>
      obtain ⟨off, h1, rfl, h2, rfl⟩ := access_next h
      exact .inr (.inr (.inr (.inl ⟨a, off, rest, ho, h1, h2, rfl⟩)))
    | wr a w v =>
      obtain ⟨off, h1, rfl, h2, rfl⟩ := access_next h
      by_cases h0 : off = 0
      · subst h0
        rw [writeWindow_cmd]
        cases hb : s.status.busy with
        | true =>
          exact .inr (.inr (.inr (.inr (.inl ⟨a, v, rest, ho, h1, rfl,
            writeCmd_busy (s := { s with hostOps := rest }) hb v⟩))))
        | false =>
          refine .inr (.inr (.inr (.inr (.inr (.inl ⟨a, v, rest, ho, h1, rfl, ?_⟩)))))
          exact writeCmd_idle (s := { s with hostOps := rest }) hb v
      · rw [writeWindow_of_ne (by omega)]
        exact .inr (.inr (.inr (.inr (.inr (.inr (.inl
          ⟨a, off, v, rest, ho, h1, h2, by omega, rfl⟩))))))
    | poll => exact absurd rfl hp
    | assertReset =>
      cases h
      exact .inr (.inr (.inr (.inr (.inr (.inr (.inr ⟨rest, ho, rfl⟩))))))

/-! ### A step -/

theorem step_of_engineTurn {p : Pending} (h : s.engineTurn p) : step s = engineStep s p := by
  obtain ⟨hl, hw⟩ := h
  simp [step, hl, hw]

theorem step_of_hostTurn (h : s.hostTurn) : step s = (s.passed s.hostOps).hostStep := by
  cases hl : s.latch with
  | none =>
    have e : s.passed s.hostOps = s := by simp only [State.passed, hl, Option.map_none]; rw [← hl]
    rw [e, step, hl]
  | some p =>
    have e : s.passed s.hostOps = s.tick p := by simp only [State.passed, hl, Option.map_some]; rfl
    rw [e, step, hl]
    exact if_neg (h p hl)

theorem turn_cases (s : State) : s.hostTurn ∨ ∃ p, s.engineTurn p := by
  cases hl : s.latch with
  | none => exact .inl fun p hp => by simp [hl] at hp
  | some p =>
    by_cases hw : p.wait = 0
    · exact .inr ⟨p, hl, hw⟩
    · exact .inl fun q hq => by rw [hl] at hq; cases hq; exact hw

/-- All a step can be: a command's completion, an illegal word's, or a host step. -/
theorem step_cases (h : step s = .next t) :
    (∃ p i, s.engineTurn p ∧ Sys2Proof.decode p.word = .ok i ∧ exec i s = .next t) ∨
    (∃ p r, s.engineTurn p ∧ Sys2Proof.decode p.word = .error r ∧ t = s.rejectWord p.word) ∨
    (s.hostTurn ∧ (s.passed s.hostOps).hostStep = .next t) := by
  rcases turn_cases s with ht | ⟨p, hp⟩
  · exact .inr (.inr ⟨ht, by rwa [step_of_hostTurn ht] at h⟩)
  · rw [step_of_engineTurn hp, engineStep] at h
    cases hd : Sys2Proof.decode p.word with
    | ok i => rw [hd] at h; exact .inl ⟨p, i, hp, hd, h⟩
    | error r => rw [hd] at h; cases h; exact .inr (.inl ⟨p, r, hp, hd, rfl⟩)

end Sys2Proof.Machine
end

