-- ==== Sys2Proof/Laws/Datapath.lean ====
section
/-! SUPPORT. The datapath functions: which error each can raise, and the length of what each gives. -/

namespace Sys2Proof.Machine

/-! ### Key expander -/

theorem expandKey_error {key : Vector Byte 24} {kl : Word} {e : CmdError}
    (h : expandKey key kl = .error e) : e = .keySize kl := by
  unfold expandKey at h
  split_ifs at h <;> cases h <;> rfl

theorem expandKey_of_legal {key : Vector Byte 24} {kl : Word} (h : kl = 8 ∨ kl = 16 ∨ kl = 24) :
    ∃ x, expandKey key kl = .ok x := by
  rcases h with rfl | rfl | rfl
  · exact ⟨_, rfl⟩
  · exact ⟨_, rfl⟩
  · exact ⟨_, rfl⟩

theorem expandKey_of_illegal {key : Vector Byte 24} {kl : Word}
    (h : ¬ (kl = 8 ∨ kl = 16 ∨ kl = 24)) : expandKey key kl = .error (.keySize kl) := by
  simp only [not_or] at h
  rw [expandKey, if_neg h.1, if_neg h.2.1, if_neg h.2.2]

/-! ### Format encoder -/

theorem padPin_error {fmt : Byte} {pin : Vector Byte 16} {pl : Word} {e : CmdError}
    (h : padPin fmt pin pl = .error e) : e = .pinSize pl ∨ e = .isoFormat fmt := by
  unfold padPin at h
  split_ifs at h <;> cases h <;> simp

/-- The number of characters PADPIN writes (10_state R43). -/
theorem padPin_length {fmt : Byte} {pin : Vector Byte 16} {pl : Word} {cs : List Byte}
    (h : padPin fmt pin pl = .ok cs) :
    (1 ≤ pl.toNat ∧ pl.toNat ≤ 9) ∧
      (fmt = 0 ∧ cs.length = 16 ∨ (fmt = 1 ∨ fmt = 3) ∧ cs.length = 2 + pl.toNat) := by
  unfold padPin at h
  simp only [Config.pinMin, Config.pinMax] at h
  split_ifs at h with h1 h2 h3 <;> cases h
  · refine ⟨by omega, .inl ⟨h2, ?_⟩⟩
    simp; omega
  · refine ⟨by omega, .inr ⟨h3, ?_⟩⟩
    simp; omega

theorem shiftPan_error {fmt : Byte} {pan : Vector Byte 24} {pl : Word} {e : CmdError}
    (h : shiftPan fmt pan pl = .error e) : e = .isoFormat fmt ∨ e = .panSize pl := by
  unfold shiftPan at h
  split_ifs at h <;> cases h <;> simp

theorem shiftPan_ok {fmt : Byte} {pan : Vector Byte 24} {pl : Word} {cs : List Byte}
    (h : shiftPan fmt pan pl = .ok cs) :
    fmt = 0 ∧ 13 ≤ pl.toNat ∧ pl.toNat ≤ 24 ∧ cs.length = 16 ∧
      cs = List.replicate 4 charZero ++ (pan.toList.drop (pl.toNat - 13)).take 12 := by
  unfold shiftPan at h
  simp only [Config.panMin, Config.panMax] at h
  split_ifs at h with h1 h2 <;> cases h
  refine ⟨by simpa using h1, by omega, by omega, ?_, rfl⟩
  simp; omega

/-! ### Nibble packer -/

theorem pack_error {field : FieldId} {cs : List Byte} {e : CmdError}
    (h : pack field cs = .error e) : e = .hexDecode field := by
  fun_induction pack field cs generalizing e with
  | case1 => cases h
  | case2 => cases h; rfl
  | case3 a b rest hi lo _ _ bs hbs => cases h
  | case4 a b rest hi lo _ _ e' he ih => cases h; exact ih he
  | case5 => cases h; rfl

theorem pack_length {field : FieldId} {cs bs : List Byte} (h : pack field cs = .ok bs) :
    cs.length = 2 * bs.length := by
  fun_induction pack field cs generalizing bs with
  | case1 => cases h; rfl
  | case2 => cases h
  | case3 a b rest hi lo _ _ bs' hbs ih => cases h; have := ih hbs; simp; omega
  | case4 a b rest hi lo _ _ e' he => cases h
  | case5 => cases h

theorem nib_isSome (c : Byte) : (nib c).isSome = isHexChar c := by
  unfold nib isHexChar
  split_ifs <;> simp_all

/-- A field that packs holds hexadecimal digits only. -/
theorem pack_isHexChar {field : FieldId} {cs bs : List Byte} (h : pack field cs = .ok bs) :
    ∀ c ∈ cs, isHexChar c = true := by
  fun_induction pack field cs generalizing bs with
  | case1 => simp
  | case2 => cases h
  | case3 a b rest hi lo hlo hhi bs' hbs ih =>
    intro c hc
    rcases List.mem_cons.1 hc with rfl | hc
    · rw [← nib_isSome, hhi]; rfl
    rcases List.mem_cons.1 hc with rfl | hc
    · rw [← nib_isSome, hlo]; rfl
    · exact ih hbs c hc
  | case4 => cases h
  | case5 => cases h

/-! ### Masking -/

theorem xorBuffers_ok {a b c : List Byte} (h : xorBuffers a b = .ok c) :
    a.length = b.length ∧ c = List.zipWith (· ^^^ ·) a b ∧ c.length = a.length := by
  unfold xorBuffers at h
  split_ifs at h with hl <;> cases h
  have hl : a.length = b.length := by simpa using hl
  exact ⟨hl, rfl, by simp [hl]⟩

theorem xorBuffers_of_length {a b : List Byte} (h : a.length = b.length) :
    xorBuffers a b = .ok (List.zipWith (· ^^^ ·) a b) := by
  rw [xorBuffers, if_neg (by simp [h])]

theorem xorBuffers_error {a b : List Byte} {e : CmdError} (h : xorBuffers a b = .error e) :
    e = .lengthMismatch a.length b.length := by
  unfold xorBuffers at h
  split_ifs at h; cases h; rfl

/-! ### BCD -/

theorem bcdToDecimal_append_foldl (bs : List Byte) (acc : Nat) :
    bs.foldl (fun acc x => acc * 100 + (hiNibble x).toNat * 10 + (loNibble x).toNat) acc =
      acc * 100 ^ bs.length + bcdToDecimal bs := by
  induction bs generalizing acc with
  | nil => simp [bcdToDecimal]
  | cons b bs ih =>
    simp only [List.foldl_cons, bcdToDecimal, List.length_cons]
    rw [ih, ih (0 * 100 + _ + _)]
    ring

theorem bcdToDecimal_cons (b : Byte) (bs : List Byte) :
    bcdToDecimal (b :: bs) =
      ((hiNibble b).toNat * 10 + (loNibble b).toNat) * 100 ^ bs.length + bcdToDecimal bs := by
  rw [bcdToDecimal, List.foldl_cons, bcdToDecimal_append_foldl]
  ring

theorem bcdToDecimal_le (bs : List Byte) :
    bcdToDecimal bs * 99 ≤ 165 * (100 ^ bs.length - 1) := by
  induction bs with
  | nil => simp [bcdToDecimal]
  | cons b bs ih =>
    rw [bcdToDecimal_cons, List.length_cons, pow_succ]
    have h1 := (hiNibble b).isLt
    have h2 := (loNibble b).isLt
    have hb : (hiNibble b).toNat * 10 + (loNibble b).toNat ≤ 165 := by omega
    have hp : 1 ≤ 100 ^ bs.length := Nat.one_le_pow _ _ (by omega)
    have := Nat.mul_le_mul_right (100 ^ bs.length) hb
    omega

theorem bcdToAscii_ok {bs : List Byte} {n : Nat} {cs : List Byte} (h : bcdToAscii bs n = .ok cs) :
    (n + 1) / 2 ≤ bs.length ∧ cs = (List.range n).map (fun i => asc (nibbleAt bs i)) := by
  unfold bcdToAscii at h
  split_ifs at h with hl; cases h
  exact ⟨by omega, rfl⟩

theorem bcdToAscii_error {bs : List Byte} {n : Nat} {e : CmdError}
    (h : bcdToAscii bs n = .error e) : e = .insufficientData n := by
  unfold bcdToAscii at h
  split_ifs at h; cases h; rfl

theorem isPinoutChar_asc (v : BitVec 4) : isPinoutChar (asc v) = true := by
  revert v; decide

/-! ### Commands: the errors a command can report -/

theorem cipherBlock_error {s : State} {src : Src} {e : CmdError}
    (h : s.cipherBlock src = .error e) :
    e = .keyNotLoaded ∨ e = .lengthMismatch s.outlen.toNat 8 := by
  unfold State.cipherBlock at h
  split at h
  · cases h; exact .inl rfl
  · cases src with
    | input => cases h
    | blkout => dsimp only at h; split at h <;> cases h; exact .inr rfl

theorem maskResult_error {s : State} {src : Src} {e : CmdError} (h : maskResult s src = .error e) :
    (∃ f, e = .hexDecode f) ∨ ∃ a b, e = .lengthMismatch a b := by
  unfold maskResult at h
  cases ha : s.maskOperand src with
  | error e' =>
    rw [ha] at h; cases h
    cases src with
    | input => exact .inl ⟨_, pack_error ha⟩
    | blkout => cases ha
  | ok a =>
    cases hb : pack .shiftedPan s.fieldbChars with
    | error e' => rw [ha, hb] at h; cases h; exact .inl ⟨_, pack_error hb⟩
    | ok b =>
      rw [ha, hb] at h
      exact .inr ⟨_, _, xorBuffers_error h⟩

/-- The values ENCODE goes through when every check passes (45_pipelines R190). -/
theorem encodeResult_ok {x : Inputs} {bs : List Byte} (h : encodeResult x = .ok bs) :
    ∃ key pf sf a b c, expandKey x.key x.keylen = .ok key ∧ padPin x.format x.pin x.pinlen = .ok pf ∧
      x.format = 0 ∧ shiftPan x.format x.pan x.panlen = .ok sf ∧ pack .paddedPin pf = .ok a ∧
      pack .shiftedPan sf = .ok b ∧ xorBuffers a b = .ok c ∧
      bs = bytesOfBlock (tdesE key (blockOfBytes c)) := by
  simp only [encodeResult, bind, Except.bind] at h
  cases h1 : expandKey x.key x.keylen with
  | error e => simp only [h1] at h; cases h
  | ok key =>
  cases h2 : padPin x.format x.pin x.pinlen with
  | error e => simp only [h1, h2] at h; cases h
  | ok pf =>
  cases h3 : raiseIf (x.format != 0 && x.format != 3) (.isoFormat x.format) with
  | error e => simp only [h1, h2, h3] at h; cases h
  | ok u =>
  cases h4 : shiftPan x.format x.pan x.panlen with
  | error e => simp only [h1, h2, h3, h4] at h; cases h
  | ok sf =>
  cases h5 : pack .paddedPin pf with
  | error e => simp only [h1, h2, h3, h4, h5] at h; cases h
  | ok a =>
  cases h6 : pack .shiftedPan sf with
  | error e => simp only [h1, h2, h3, h4, h5, h6] at h; cases h
  | ok b =>
  cases h7 : xorBuffers a b with
  | error e => simp only [h1, h2, h3, h4, h5, h6, h7] at h; cases h
  | ok c =>
    simp only [h1, h2, h3, h4, h5, h6, h7] at h
    cases h
    exact ⟨key, pf, sf, a, b, c, rfl, rfl, (shiftPan_ok h4).1, rfl, h5, h6, h7, rfl⟩

/-- The values DECODE goes through when every check passes (45_pipelines R192). -/
theorem decodeResult_ok {x : Inputs} {cs : List Byte} (h : decodeResult x = .ok cs) :
    ∃ key sf b c, expandKey x.key x.keylen = .ok key ∧ x.format = 0 ∧
      shiftPan x.format x.pan x.panlen = .ok sf ∧ pack .shiftedPan sf = .ok b ∧
      xorBuffers (bytesOfBlock (tdesD key (blockOfBytes x.blkin.toList))) b = .ok c ∧
      bcdToDecimal (c.take 1) ≤ 10 ∧ bcdToAscii (c.drop 1) (bcdToDecimal (c.take 1)) = .ok cs := by
  simp only [decodeResult, bind, Except.bind] at h
  cases h1 : expandKey x.key x.keylen with
  | error e => simp only [h1] at h; cases h
  | ok key =>
  cases h2 : raiseIf (x.format != 0 && x.format != 1) (.isoFormat x.format) with
  | error e => simp only [h1, h2] at h; cases h
  | ok u =>
  cases h3 : shiftPan x.format x.pan x.panlen with
  | error e => simp only [h1, h2, h3] at h; cases h
  | ok sf =>
  cases h4 : pack .shiftedPan sf with
  | error e => simp only [h1, h2, h3, h4] at h; cases h
  | ok b =>
  cases h5 : xorBuffers (bytesOfBlock (tdesD key (blockOfBytes x.blkin.toList))) b with
  | error e => simp only [h1, h2, h3, h4, h5] at h; cases h
  | ok c =>
    have hf := (shiftPan_ok h3).1
    simp only [h1, h2, h3, h4, h5] at h
    by_cases hl : 10 < bcdToDecimal (c.take 1)
    · simp [raiseIf, hf, hl] at h
    · simp [raiseIf, hf, hl] at h
      exact ⟨key, sf, b, c, rfl, hf, rfl, h4, h5, by omega,
        by rw [List.drop_one]; exact h⟩

theorem raiseIf_error {c : Bool} {e e' : CmdError} (h : raiseIf c e = .error e') : e' = e := by
  unfold raiseIf at h; split at h <;> cases h; rfl

/-- The errors ENCODE can report, with what each carries (45_pipelines R191). -/
theorem encodeResult_error {x : Inputs} {e : CmdError} (h : encodeResult x = .error e) :
    e = .keySize x.keylen ∨ e = .pinSize x.pinlen ∨ e = .isoFormat x.format ∨
    e = .panSize x.panlen ∨
    (∃ pf, padPin x.format x.pin x.pinlen = .ok pf ∧ pack .paddedPin pf = .error e) ∨
    (∃ sf, shiftPan x.format x.pan x.panlen = .ok sf ∧ pack .shiftedPan sf = .error e) := by
  simp only [encodeResult, bind, Except.bind] at h
  cases h1 : expandKey x.key x.keylen with
  | error e' => simp only [h1] at h; cases h; exact .inl (expandKey_error h1)
  | ok key =>
  cases h2 : padPin x.format x.pin x.pinlen with
  | error e' =>
    simp only [h1, h2] at h; cases h
    rcases padPin_error h2 with rfl | rfl <;> simp
  | ok pf =>
  cases h3 : raiseIf (x.format != 0 && x.format != 3) (.isoFormat x.format) with
  | error e' => simp only [h1, h2, h3] at h; cases h; rw [raiseIf_error h3]; simp
  | ok u =>
  cases h4 : shiftPan x.format x.pan x.panlen with
  | error e' =>
    simp only [h1, h2, h3, h4] at h; cases h
    rcases shiftPan_error h4 with rfl | rfl <;> simp
  | ok sf =>
  cases h5 : pack .paddedPin pf with
  | error e' =>
    simp only [h1, h2, h3, h4, h5] at h; cases h
    exact .inr (.inr (.inr (.inr (.inl ⟨pf, rfl, h5⟩))))
  | ok a =>
  cases h6 : pack .shiftedPan sf with
  | error e' =>
    simp only [h1, h2, h3, h4, h5, h6] at h; cases h
    exact .inr (.inr (.inr (.inr (.inr ⟨sf, rfl, h6⟩))))
  | ok b =>
    -- the lengths agree: with FORMAT 0 both fields are 16 characters
    exfalso
    have hf := (shiftPan_ok h4).1
    have hp : pf.length = 16 := by
      rcases (padPin_length h2).2 with ⟨_, hl⟩ | ⟨h', _⟩
      · exact hl
      · rw [hf] at h'; rcases h' with h' | h' <;> cases h'
    have la := pack_length h5
    have lb := pack_length h6
    have ls := (shiftPan_ok h4).2.2.2.1
    simp only [h1, h2, h3, h4, h5, h6,
      xorBuffers_of_length (show a.length = b.length by omega)] at h
    cases h

/-- The errors DECODE can report, with what each carries (45_pipelines R193). -/
theorem decodeResult_error {x : Inputs} {e : CmdError} (h : decodeResult x = .error e) :
    e = .keySize x.keylen ∨ e = .isoFormat x.format ∨ e = .panSize x.panlen ∨
    (∃ sf, shiftPan x.format x.pan x.panlen = .ok sf ∧ pack .shiftedPan sf = .error e) := by
  simp only [decodeResult, bind, Except.bind] at h
  cases h1 : expandKey x.key x.keylen with
  | error e' => simp only [h1] at h; cases h; exact .inl (expandKey_error h1)
  | ok key =>
  cases h2 : raiseIf (x.format != 0 && x.format != 1) (.isoFormat x.format) with
  | error e' => simp only [h1, h2] at h; cases h; rw [raiseIf_error h2]; simp
  | ok u =>
  cases h3 : shiftPan x.format x.pan x.panlen with
  | error e' =>
    simp only [h1, h2, h3] at h; cases h
    rcases shiftPan_error h3 with rfl | rfl <;> simp
  | ok sf =>
  cases h4 : pack .shiftedPan sf with
  | error e' =>
    simp only [h1, h2, h3, h4] at h; cases h
    exact .inr (.inr (.inr ⟨sf, rfl, h4⟩))
  | ok b =>
    have hf := (shiftPan_ok h3).1
    have lb := pack_length h4
    have ls := (shiftPan_ok h3).2.2.2.1
    simp only [h1, h2, h3, h4] at h
    generalize hd : bytesOfBlock (tdesD key (blockOfBytes x.blkin.toList)) = d at h
    have ld : d.length = 8 := by subst hd; rfl
    simp only [xorBuffers_of_length (show d.length = b.length by omega)] at h
    generalize hc : List.zipWith (· ^^^ ·) d b = c at h
    have lc : c.length = 8 := by subst hc; simp; omega
    cases h5 : raiseIf (x.format == 0 && decide (Config.decodeLenLimit < bcdToDecimal (c.take 1)))
        (.isoFormat 0) with
    | error e' => simp only [h5] at h; cases h; rw [raiseIf_error h5, hf]; simp
    | ok u =>
      -- at most 10 digits are asked of 7 bytes
      exfalso
      have hl : ¬ Config.decodeLenLimit < bcdToDecimal (c.take 1) := by
        intro hl
        rw [hf] at h5
        simp [raiseIf, hl] at h5
      simp only [h5] at h
      rw [bcdToAscii, if_neg (by simp only [List.length_drop, lc, Config.decodeLenLimit] at hl ⊢; omega)] at h
      cases h

/-- The errors ENCODE and DECODE can report are none of the hardware's own two kinds. -/
theorem pipeline_error {x : Inputs} {e : CmdError}
    (h : encodeResult x = .error e ∨ decodeResult x = .error e) :
    1 ≤ e.code.toNat ∧ e.code.toNat ≤ 7 := by
  rcases h with h | h
  · rcases encodeResult_error h with rfl | rfl | rfl | rfl | ⟨_, _, h⟩ | ⟨_, _, h⟩
    any_goals simp [CmdError.code]
    all_goals rw [pack_error h]; simp
  · rcases decodeResult_error h with rfl | rfl | rfl | ⟨_, _, h⟩
    any_goals simp [CmdError.code]
    rw [pack_error h]; simp

end Sys2Proof.Machine
end

