-- ==== Sys2Proof/Laws/Decode.lean ====
section
/-! SUPPORT. The fields of an assembled word, and a word from its fields (30_encoding R80-R85, R89). -/

namespace Sys2Proof

variable (op : BitVec 8) (src : BitVec 1) (bytef : BitVec 4) (digf : BitVec 5)

theorem getLsbD_assemble (i : Nat) :
    (assemble op src bytef digf).getLsbD i =
      if i < 8 then op.getLsbD i
      else if i < 16 then src.getLsbD (i - 8)
      else if i < 20 then bytef.getLsbD (i - 16)
      else if i < 32 then digf.getLsbD (i - 20) else false := by
  simp only [assemble, BitVec.getLsbD_or, BitVec.getLsbD_shiftLeft, BitVec.getLsbD_setWidth]
  have h8 : ∀ j, 8 ≤ j → op.getLsbD j = false := fun j h => BitVec.getLsbD_of_ge _ _ h
  have h1 : ∀ j, 1 ≤ j → src.getLsbD j = false := fun j h => BitVec.getLsbD_of_ge _ _ h
  have h4 : ∀ j, 4 ≤ j → bytef.getLsbD j = false := fun j h => BitVec.getLsbD_of_ge _ _ h
  by_cases hi : i < 32
  · split_ifs
    · simp [show i < 32 by omega, show i < 8 by omega, show i < 16 by omega, show i < 20 by omega]
    · simp [hi, show ¬ i < 8 by omega, show i < 16 by omega, show i < 20 by omega,
        h8 i (by omega), show i - 8 < 32 by omega]
    · simp [hi, show ¬ i < 8 by omega, show ¬ i < 16 by omega, show i < 20 by omega,
        h8 i (by omega), h1 (i - 8) (by omega), show i - 16 < 32 by omega]
    · simp [hi, show ¬ i < 8 by omega, show ¬ i < 16 by omega, show ¬ i < 20 by omega,
        h8 i (by omega), h1 (i - 8) (by omega), h4 (i - 16) (by omega), show i - 20 < 32 by omega]
  · simp [hi, show ¬ i < 8 by omega, show ¬ i < 16 by omega, show ¬ i < 20 by omega]

@[simp] theorem opField_assemble : opField (assemble op src bytef digf) = op := by
  apply BitVec.eq_of_getLsbD_eq
  intro i hi
  rw [opField, BitVec.getLsbD_extractLsb', getLsbD_assemble]
  simp [hi]

@[simp] theorem srcField_assemble : srcField (assemble op src bytef digf) = src := by
  apply BitVec.eq_of_getLsbD_eq
  intro i hi
  rw [srcField, BitVec.getLsbD_extractLsb', getLsbD_assemble]
  simp [show ¬ 8 + i < 8 by omega, show 8 + i < 16 by omega, hi]

@[simp] theorem byteField_assemble : byteField (assemble op src bytef digf) = bytef := by
  apply BitVec.eq_of_getLsbD_eq
  intro i hi
  rw [byteField, BitVec.getLsbD_extractLsb', getLsbD_assemble]
  simp [show ¬ 16 + i < 8 by omega, show ¬ 16 + i < 16 by omega, show 16 + i < 20 by omega, hi]

@[simp] theorem digitField_assemble : digitField (assemble op src bytef digf) = digf := by
  apply BitVec.eq_of_getLsbD_eq
  intro i hi
  rw [digitField, BitVec.getLsbD_extractLsb', getLsbD_assemble]
  simp [show ¬ 20 + i < 8 by omega, show ¬ 20 + i < 16 by omega, show ¬ 20 + i < 20 by omega,
    show 20 + i < 32 by omega, hi]

@[simp] theorem reservedClear_assemble : reservedClear (assemble op src bytef digf) = true := by
  simp only [reservedClear, Bool.and_eq_true, beq_iff_eq]
  constructor
  · apply BitVec.eq_of_getLsbD_eq
    intro i hi
    rw [BitVec.getLsbD_extractLsb', getLsbD_assemble]
    simp [show ¬ 9 + i < 8 by omega, show 9 + i < 16 by omega]
    intro _; exact BitVec.getLsbD_of_ge _ _ (by omega)
  · apply BitVec.eq_of_getLsbD_eq
    intro i hi
    rw [BitVec.getLsbD_extractLsb', getLsbD_assemble]
    simp [show ¬ 25 + i < 8 by omega, show ¬ 25 + i < 16 by omega, show ¬ 25 + i < 20 by omega]
    intro _ _; exact BitVec.getLsbD_of_ge _ _ (by omega)

/-- A word without reserved bits is assembled from its four fields. -/
theorem assemble_fields (w : Word) (h : reservedClear w = true) :
    assemble (opField w) (srcField w) (byteField w) (digitField w) = w := by
  simp only [reservedClear, Bool.and_eq_true, beq_iff_eq] at h
  have r9 : ∀ i, i < 7 → w.getLsbD (9 + i) = false := by
    intro i hi
    have := congrArg (fun v => v.getLsbD i) h.1
    simpa [BitVec.getLsbD_extractLsb', hi] using this
  have r25 : ∀ i, i < 7 → w.getLsbD (25 + i) = false := by
    intro i hi
    have := congrArg (fun v => v.getLsbD i) h.2
    simpa [BitVec.getLsbD_extractLsb', hi] using this
  apply BitVec.eq_of_getLsbD_eq
  intro i hi
  rw [getLsbD_assemble]
  simp only [opField, srcField, byteField, digitField, BitVec.getLsbD_extractLsb']
  split_ifs with h1 h2 h3
  · simp [h1]
  · by_cases h8 : i = 8
    · subst h8; simp
    · have e : 9 + (i - 9) = i := by omega
      have r := r9 (i - 9) (by omega)
      rw [e] at r
      simp [r, show ¬ i - 8 < 1 by omega]
  · simp [show i - 16 < 4 by omega, show 16 + (i - 16) = i by omega]
  · by_cases h25 : i < 25
    · simp [show i - 20 < 5 by omega, show 20 + (i - 20) = i by omega]
    · have e : 25 + (i - 25) = i := by omega
      have r := r25 (i - 25) (by omega)
      rw [e] at r
      simp [r, show ¬ i - 20 < 5 by omega]

@[simp] theorem srcOf_srcBit (s : Src) : srcOf (srcBit s) = s := by cases s <;> rfl

theorem srcBit_srcOf (b : BitVec 1) : srcBit (srcOf b) = b := by
  revert b; decide

theorem reservedClear_of_decode {w : Word} {i : Instr} (h : decode w = .ok i) :
    reservedClear w = true := by
  by_contra hr
  rw [decode, if_pos hr] at h
  cases h

end Sys2Proof
end

