-- ==== Sys2Proof/Laws/Exec.lean ====
section
/-! SUPPORT. What a command can do, said once for all ten: it succeeds with new destinations, or fails
with cleared ones (60_exceptions R213, R214). -/

namespace Sys2Proof.Machine

theorem sameBut_putKx (s : State) (x : Vector Byte 24) : s.SameBut .key (s.putKx x) := by
  constructor <;> simp

theorem sameBut_putFielda (s : State) (cs : List Byte) : s.SameBut .fielda (s.putFielda cs) := by
  constructor <;> simp

theorem sameBut_putFieldb (s : State) (cs : List Byte) : s.SameBut .fieldb (s.putFieldb cs) := by
  constructor <;> simp

theorem sameBut_putBlkout (s : State) (bs : List Byte) : s.SameBut .blkout (s.putBlkout bs) := by
  constructor <;> simp

theorem sameBut_putAcc (s : State) (v : Nat) : s.SameBut .acc (s.putAcc v) := by
  constructor <;> simp

theorem sameBut_putPinout (s : State) (cs : List Byte) : s.SameBut .pinout (s.putPinout cs) := by
  constructor <;> simp

/-- The flags of a completed success, and its registers. -/
theorem sameBut_succeed {d : Dest} {s u : State} (h : s.SameBut d u) : s.SameBut d u.succeed :=
  { cmd := h.cmd, inputs := h.inputs, ovr := h.ovr, hostOps := h.hostOps, reads := h.reads,
    draws := h.draws, key := h.key, fielda := h.fielda, fieldb := h.fieldb, blkout := h.blkout,
    acc := h.acc, pinout := h.pinout }

theorem succeededFrom_succeed {d : Dest} {s u : State} (h : s.SameBut d u) :
    s.SucceededFrom u.succeed :=
  { busy := rfl, done := rfl, err := rfl, errcode := rfl, errinfo := rfl, ovr := h.ovr, latch := rfl }

/-- `complete` with a destination `d`: success with only `d` changed, or the failure of an error the
computation can raise. -/
theorem complete_outcome {α : Type} {s : State} {d : Dest} {r : Except CmdError α}
    {store : State → α → State} {clear : State → State} (hs : ∀ a, s.SameBut d (store s a))
    (hc : ∀ e : CmdError, (clear s).fail e = s.failedWith d e.code e.info)
    (he : ∀ e : CmdError, r = .error e → 1 ≤ e.code.toNat ∧ e.code.toNat ≤ 8) :
    (∃ u, s.complete r store clear = u.succeed ∧ s.SameBut d u) ∨
    (∃ e : CmdError, s.complete r store clear = s.failedWith d e.code e.info ∧
      1 ≤ e.code.toNat ∧ e.code.toNat ≤ 8) := by
  cases r with
  | ok a => exact .inl ⟨_, rfl, hs a⟩
  | error e => exact .inr ⟨e, hc e, he e rfl⟩

/-- Every command, from every state. -/
theorem exec_outcome (i : Instr) (s : State) :
    (∃ u, exec i s = .next u.succeed ∧ s.SameBut (destOf i) u) ∨
    (∃ e : CmdError, exec i s = .next (s.failedWith (destOf i) e.code e.info) ∧
      1 ≤ e.code.toNat ∧ e.code.toNat ≤ 8) := by
  have C := fun e => fail_clear_eq (s := s) e
  have lift : ∀ {d : Dest} {t : State},
      ((∃ u, t = u.succeed ∧ s.SameBut d u) ∨
        (∃ e : CmdError, t = s.failedWith d e.code e.info ∧ 1 ≤ e.code.toNat ∧ e.code.toNat ≤ 8)) →
      (∃ u, (.next t : Result) = .next u.succeed ∧ s.SameBut d u) ∨
        (∃ e : CmdError, (.next t : Result) = .next (s.failedWith d e.code e.info) ∧
          1 ≤ e.code.toNat ∧ e.code.toNat ≤ 8) := by
    rintro d t (⟨u, rfl, h⟩ | ⟨e, rfl, h⟩)
    · exact .inl ⟨u, rfl, h⟩
    · exact .inr ⟨e, rfl, h⟩
  cases i with
  | expand =>
    exact lift (complete_outcome (sameBut_putKx s) (fun e => (C e).2.2.2.2.2)
      (fun e h => by rw [expandKey_error h]; simp [CmdError.code]))
  | padpin =>
    exact lift (complete_outcome (sameBut_putFielda s) (fun e => (C e).2.1)
      (fun e h => by rcases padPin_error h with rfl | rfl <;> simp [CmdError.code]))
  | shiftpan =>
    exact lift (complete_outcome (sameBut_putFieldb s) (fun e => (C e).2.2.1)
      (fun e h => by rcases shiftPan_error h with rfl | rfl <;> simp [CmdError.code]))
  | mask src =>
    exact lift (complete_outcome (sameBut_putBlkout s) (fun e => (C e).1)
      (fun e h => by
        rcases maskResult_error h with ⟨f, rfl⟩ | ⟨a, b, rfl⟩ <;> simp [CmdError.code]))
  | encrypt src =>
    exact lift (complete_outcome (store := fun t x => t.putBlkout (bytesOfBlock (tdesE s.kx x)))
      (fun _ => sameBut_putBlkout s _) (fun e => (C e).1)
      (fun e h => by rcases cipherBlock_error h with rfl | rfl <;> simp [CmdError.code]))
  | decrypt src =>
    exact lift (complete_outcome (store := fun t x => t.putBlkout (bytesOfBlock (tdesD s.kx x)))
      (fun _ => sameBut_putBlkout s _) (fun e => (C e).1)
      (fun e h => by rcases cipherBlock_error h with rfl | rfl <;> simp [CmdError.code]))
  | bcd2dec n =>
    exact lift (complete_outcome (sameBut_putAcc s) (fun e => (C e).2.2.2.2.1)
      (fun e h => by
        unfold bcd2decResult at h
        split_ifs at h; cases h; simp [CmdError.code]))
  | bcd2ascii off d =>
    exact lift (complete_outcome (sameBut_putPinout s) (fun e => (C e).2.2.2.1)
      (fun e h => by rw [bcdToAscii_error h]; simp [CmdError.code]))
  | encode =>
    exact lift (complete_outcome (sameBut_putBlkout s) (fun e => (C e).1)
      (fun e h => by have := pipeline_error (.inl h); omega))
  | decode =>
    exact lift (complete_outcome (sameBut_putPinout s) (fun e => (C e).2.2.2.1)
      (fun e h => by have := pipeline_error (.inr h); omega))

/-- A command always completes. -/
theorem exec_next (i : Instr) (s : State) : ∃ t, exec i s = .next t := by
  rcases exec_outcome i s with ⟨u, h, _⟩ | ⟨e, h, _⟩ <;> exact ⟨_, h⟩

/-- What no command changes, and how every command leaves the flags and the latch. -/
theorem exec_keeps {i : Instr} {s t : State} (h : exec i s = .next t) :
    t.cmd = s.cmd ∧ t.inputs = s.inputs ∧ t.status.ovr = s.status.ovr ∧ t.hostOps = s.hostOps ∧
    t.reads = s.reads ∧ t.draws = s.draws ∧ t.latch = none ∧ t.status.busy = false ∧
    t.status.done = true := by
  rcases exec_outcome i s with ⟨u, hu, hs⟩ | ⟨e, he, _⟩
  · rw [hu] at h; cases h
    exact ⟨hs.cmd, hs.inputs, hs.ovr, hs.hostOps, hs.reads, hs.draws, rfl, rfl, rfl⟩
  · rw [he] at h; cases h
    cases destOf i <;> exact ⟨rfl, rfl, rfl, rfl, rfl, rfl, rfl, rfl, rfl⟩

/-- The completion step of any word: it leaves the block idle and DONE. -/
theorem engineStep_next {s : State} {p : Pending} :
    ∃ t, engineStep s p = .next t ∧ t.latch = none ∧ t.status.busy = false ∧
      t.status.done = true ∧ t.cmd = s.cmd ∧ t.hostOps = s.hostOps ∧ t.reads = s.reads := by
  rw [engineStep]
  cases Sys2Proof.decode p.word with
  | error r => exact ⟨_, rfl, rfl, rfl, rfl, rfl, rfl, rfl⟩
  | ok i =>
    obtain ⟨t, h⟩ := exec_next i s
    obtain ⟨h1, _, _, h4, h5, _, h7, h8, h9⟩ := exec_keeps h
    exact ⟨t, h, h7, h8, h9, h1, h4, h5⟩

end Sys2Proof.Machine
end

