-- ==== Sys2Proof/Laws/PerInstr.lean ====
section
/-! SUPPORT. Statements made for every command, one lemma per constructor. -/

namespace Sys2Proof.Laws.ReservedBits

/-- "The reserved bits CMD[15:9] and CMD[31:25] must be 0 in every command" (30_encoding R85): they
are 0 in the word of the command. -/
def Statement (i : Instr) : Prop :=
  (encode i).extractLsb' 9 7 = 0 ∧ (encode i).extractLsb' 25 7 = 0

theorem expand : Statement .expand := by unfold Statement; decide

theorem padpin : Statement .padpin := by unfold Statement; decide

theorem shiftpan : Statement .shiftpan := by unfold Statement; decide

theorem mask (src : Src) : Statement (.mask src) := by unfold Statement; cases src <;> decide

theorem encrypt (src : Src) : Statement (.encrypt src) := by unfold Statement; cases src <;> decide

theorem decrypt (src : Src) : Statement (.decrypt src) := by unfold Statement; cases src <;> decide

theorem bcd2dec (n : BitVec 4) : Statement (.bcd2dec n) := by
  unfold Statement; revert n; decide

theorem bcd2ascii (off : BitVec 4) (d : BitVec 5) : Statement (.bcd2ascii off d) := by
  unfold Statement; revert off d; decide

theorem encode : Statement .encode := by unfold Statement; decide

theorem decode : Statement .decode := by unfold Statement; decide

end Sys2Proof.Laws.ReservedBits
end

