-- ==== Sys2Proof/Laws/Run.lean ====
section
/-! SUPPORT. Runs of the machine step by step, and what a host that keeps the bus rules meets. -/

namespace Sys2Proof.Machine

theorem run_succ {k : Nat} {s t : State} (h : step s = .next t) :
    Host.Core.run core (k + 1) s = Host.Core.run core k t := by
  have general : ∀ (M : Host.Core) (a b : M.State), M.step a = .next b →
      M.run (k + 1) a = M.run k b := by
    intro M a b hab
    rw [Host.Core.run, hab]
  exact general core s t h

theorem hostTurn_of_latch_none {s : State} (h : s.latch = none) : s.hostTurn :=
  fun p hp => by rw [h] at hp; cases hp

theorem passed_of_latch_none {s : State} (h : s.latch = none) (rest : List HostOp) :
    s.passed rest = { s with hostOps := rest } := by
  simp only [State.passed, h, Option.map_none]

/-- A host step of a host that keeps the bus rules: it happens, and performs at most the first of its
statements. -/
theorem hostStep_legal {s : State} (hl : ∀ op ∈ s.hostOps, op.legal) :
    ∃ t, s.hostStep = .next t ∧ (t.hostOps = s.hostOps ∨ ∃ op, s.hostOps = op :: t.hostOps) := by
  unfold State.hostStep
  split
  · exact ⟨_, rfl, .inl rfl⟩
  · rename_i rest ho
    split
    · exact ⟨_, rfl, .inl rfl⟩
    · exact ⟨_, rfl, .inr ⟨_, ho⟩⟩
  · rename_i op rest hp ho
    have hlo := hl op (by rw [ho]; exact List.mem_cons_self)
    cases op with
    | rd a w =>
      obtain ⟨off, h1, h2, rfl⟩ := hlo
      simp only [State.hostOp, access_offset h1]
      rw [if_pos ⟨by trivial, h2⟩]
      exact ⟨_, rfl, .inr ⟨_, ho⟩⟩
    | wr a w v =>
      obtain ⟨off, h1, h2, rfl⟩ := hlo
      simp only [State.hostOp, access_offset h1]
      rw [if_pos ⟨by trivial, h2⟩]
      refine ⟨_, rfl, .inr ⟨.wr a 4 v, ?_⟩⟩
      unfold State.writeWindow State.writeCmd
      split <;> (try split) <;> exact ho
    | poll => exact absurd rfl hp
    | assertReset => exact ⟨_, rfl, .inr ⟨_, ho⟩⟩

end Sys2Proof.Machine
end

