-- ==== Sys2Proof/Laws/Window.lean ====
section
/-! SUPPORT. The register map in closed form, and which fields of State a window read looks at. -/

namespace Sys2Proof.Machine

/-! ### Where the byte arrays stand (10_state R21) -/

theorem locate_key {j : Nat} (h : j < 6) : locate (0x020 + 4 * j) = .key (4 * j) := by
  revert j; decide

theorem locate_pin {j : Nat} (h : j < 4) : locate (0x040 + 4 * j) = .pin (4 * j) := by
  revert j; decide

theorem locate_pan {j : Nat} (h : j < 6) : locate (0x050 + 4 * j) = .pan (4 * j) := by
  revert j; decide

theorem locate_blkin {j : Nat} (h : j < 2) : locate (0x068 + 4 * j) = .blkin (4 * j) := by
  revert j; decide

theorem locate_blkout {j : Nat} (h : j < 2) : locate (0x070 + 4 * j) = .blkout (4 * j) := by
  revert j; decide

theorem locate_fielda {j : Nat} (h : j < 4) : locate (0x080 + 4 * j) = .fielda (4 * j) := by
  revert j; decide

theorem locate_fieldb {j : Nat} (h : j < 4) : locate (0x090 + 4 * j) = .fieldb (4 * j) := by
  revert j; decide

theorem locate_pinout {j : Nat} (h : j < 4) : locate (0x0B0 + 4 * j) = .pinout (4 * j) := by
  revert j; decide

/-! ### What a read looks at -/

/-- A read looks at no more than the registers of R21: the host's lists do not matter. -/
theorem readWindow_host (s : State) (ops : List HostOp) (reads : List Word) (draws off : Nat) :
    State.readWindow { s with hostOps := ops, reads := reads, draws := draws } off =
      s.readWindow off := by
  unfold State.readWindow
  cases locate off <;> rfl

/-- A word of an array of zeros. -/
theorem lanes_replicate_zero (n k : Nat) : lanes (Vector.replicate n 0#8) k = 0 := by
  have h : ∀ j, (Vector.replicate n 0#8).toList.getD j 0 = 0#8 := by
    intro j
    rw [Vector.toList_replicate, List.getD_eq_getElem?_getD, List.getElem?_replicate]
    split <;> rfl
  unfold lanes
  simp only [h]
  rfl

end Sys2Proof.Machine
end

