-- ==== Sys2Proof/Tests/Slice0.lean ====
section
/-! SUPPORT. The model's own tests: expected values from spec/95_test_vectors.md and the corner cases of
the command rules; and one witness for every obligation that has hypotheses. -/

namespace Sys2Proof.Tests

set_option Elab.async false

open Sys2Proof.Machine

/-! ### Helpers -/

/-- The characters of decimal digits. -/
def digits (ds : List Nat) : List Byte := ds.map fun d => BitVec.ofNat 8 (0x30 + d)

/-- 0123456789ABCDEF. -/
def keyA : List Byte := [0x01, 0x23, 0x45, 0x67, 0x89, 0xAB, 0xCD, 0xEF]

/-- FEDCBA9876543210. -/
def keyB : List Byte := [0xFE, 0xDC, 0xBA, 0x98, 0x76, 0x54, 0x32, 0x10]

/-- PAN 5364146259585156. -/
def panA : List Byte := digits [5, 3, 6, 4, 1, 4, 6, 2, 5, 9, 5, 8, 5, 1, 5, 6]

/-- "045810FFFFFFFFFF". -/
def paddedA : List Byte := digits [0, 4, 5, 8, 1, 0] ++ List.replicate 10 0x46

/-- "0000414625958515". -/
def shiftedA : List Byte := digits [0, 0, 0, 0, 4, 1, 4, 6, 2, 5, 9, 5, 8, 5, 1, 5]

/-- The standard inputs of 95_test_vectors: FORMAT 0, the 16-byte key, PIN 5810, the PAN. -/
def inputsA : Inputs :=
  { Inputs.reset with
    keylen := 16, key := fit 24 (keyA ++ keyA), pinlen := 4, pin := fit 16 (digits [5, 8, 1, 0]),
    panlen := 16, pan := fit 24 panA }

/-- Right after reset, with inputs loaded. -/
def loaded (x : Inputs) : State := { State.reset with inputs := x }

/-- The state after the completion step of command word `w`. -/
def ran (w : Nat) (s : State) : State :=
  match step (s.withFetchWord 32 w) with
  | .next t => t
  | .fault _ => s
  | .refused _ => s

/-- `loaded inputsA` with BLKOUT and OUTLEN as a MASK left them. -/
def withBlkout (bs : List Byte) : State := (loaded inputsA).putBlkout bs

/-- The 8-byte key expanded in KX, and a block in BLKIN. -/
def keyed (blk : List Byte) : State :=
  (loaded { inputsA with blkin := fit 8 blk }).putKx (fit 24 (keyA ++ keyA ++ keyA))

/-- The host about to perform `ops`. -/
def hosted (ops : List HostOp) : State := { loaded inputsA with hostOps := ops }

/-- A command in flight, `wait` host steps before its completion. -/
def flying (w : Word) (wait : Nat) (ops : List HostOp) : State := (hosted ops).issue w wait

/-- 95_test_vectors 2.10: the block whose clear block is 101234567890FFFF, so L = 10. -/
def blockTen : List Byte := [0x8F, 0xEF, 0xB9, 0x7B, 0xCC, 0xF2, 0x45, 0x4E]

/-! ### WellFormed refuses ill-formed commands (30_encoding R83, R84) -/

theorem test_bcd2dec_nine_is_ill_formed : (Instr.bcd2dec 9).wellFormed = false := by decide

theorem test_bcd2ascii_offset_eight_is_ill_formed : (Instr.bcd2ascii 8 0).wellFormed = false := by
  decide

theorem test_bcd2ascii_seventeen_digits_are_ill_formed :
    (Instr.bcd2ascii 0 17).wellFormed = false := by decide

theorem test_bcd2ascii_at_its_bounds_is_well_formed : (Instr.bcd2ascii 7 16).wellFormed = true := by
  decide

/-! ### Words written out from 30_encoding R80: 31:25, DIGF, BYTEF, 15:9, SRC, OP -/

theorem test_decode_expand :
    decode (0#7 ++ 0#5 ++ 0#4 ++ 0#7 ++ 0#1 ++ 0b00000001#8) = .ok .expand := by decide

theorem test_decode_padpin :
    decode (0#7 ++ 0#5 ++ 0#4 ++ 0#7 ++ 0#1 ++ 0b00000010#8) = .ok .padpin := by decide

theorem test_decode_shiftpan :
    decode (0#7 ++ 0#5 ++ 0#4 ++ 0#7 ++ 0#1 ++ 0b00000011#8) = .ok .shiftpan := by decide

theorem test_decode_mask :
    decode (0#7 ++ 0#5 ++ 0#4 ++ 0#7 ++ 1#1 ++ 0b00000100#8) = .ok (.mask .blkout) := by decide

theorem test_decode_encrypt :
    decode (0#7 ++ 0#5 ++ 0#4 ++ 0#7 ++ 1#1 ++ 0b00000101#8) = .ok (.encrypt .blkout) := by decide

theorem test_decode_decrypt :
    decode (0#7 ++ 0#5 ++ 0#4 ++ 0#7 ++ 0#1 ++ 0b00000110#8) = .ok (.decrypt .input) := by decide

theorem test_decode_bcd2dec :
    decode (0#7 ++ 0#5 ++ 0b1000#4 ++ 0#7 ++ 0#1 ++ 0b00000111#8) = .ok (.bcd2dec 8) := by decide

theorem test_decode_bcd2ascii :
    decode (0#7 ++ 0b10000#5 ++ 0b0111#4 ++ 0#7 ++ 0#1 ++ 0b00001000#8) = .ok (.bcd2ascii 7 16) := by
  decide

theorem test_decode_encode :
    decode (0#7 ++ 0#5 ++ 0#4 ++ 0#7 ++ 0#1 ++ 0b00010000#8) = .ok .encode := by decide

theorem test_decode_decode :
    decode (0#7 ++ 0#5 ++ 0#4 ++ 0#7 ++ 0#1 ++ 0b00010001#8) = .ok .decode := by decide

theorem test_decode_refuses_bits_25_and_15 :
    decode (1#7 ++ 0#5 ++ 0#4 ++ 0#7 ++ 0#1 ++ 0x01#8) = .error .reservedBit ∧
      decode (0#7 ++ 0#5 ++ 0#4 ++ 64#7 ++ 0#1 ++ 0x01#8) = .error .reservedBit := by decide

/-- 0x00410008 is `BCD2ASCII 1, 4`; 0x00080008 (OFF = 8) and 0x01100008 (D = 17) are illegal. -/
theorem test_decodeTableWord :
    decodeTableWord 32 0x00410008 = some (.bcd2ascii 1 4) ∧
      decodeTableWord 32 0x00080008 = none ∧ decodeTableWord 32 0x01100008 = none := by decide

/-! ### Commands (each one step) -/

/-- 40_key_expander R101, the example: K1 and K2, then K1 again; STATUS = 0xA. -/
theorem test_expand_two_keys :
    let t := ran 0x01 (loaded { inputsA with key := fit 24 (keyA ++ keyB) })
    t.kx.toList = keyA ++ keyB ++ keyA ∧ t.readWindow 0x004 = 0x0000000A#32 := by decide +kernel

/-- KEYLEN = 0xFFFFFFFF: KeySizeError(0xFFFFFFFF), and a valid KX is destroyed. -/
theorem test_expand_bad_length_destroys_kx :
    let t := ran 0x01 ((loaded { inputsA with keylen := 0xFFFFFFFF#32 }).putKx (fit 24 keyA))
    t.readWindow 0x004 = 0x00000306#32 ∧ t.readWindow 0x008 = 0xFFFFFFFF#32 ∧
      t.kx = Vector.replicate 24 0 := by decide +kernel

/-- 42_format_encoder R141, the example. -/
theorem test_padpin_fills_with_f :
    let t := ran 0x02 (loaded inputsA)
    t.fielda.toList = paddedA ∧ t.readWindow 0x0A0 = 16#32 ∧ t.readWindow 0x004 = 0x2#32 := by
  decide +kernel

/-- PINLEN = 0 with FORMAT = 7 gives PinSizeError(0), not IsoFormatError. -/
theorem test_padpin_checks_length_first :
    let t := ran 0x02 (loaded { inputsA with pinlen := 0, format := 7 })
    t.readWindow 0x004 = 0x00000106#32 ∧ t.readWindow 0x008 = 0#32 := by decide +kernel

/-- 42_format_encoder R143, the example. -/
theorem test_shiftpan_window :
    let t := ran 0x03 (loaded inputsA)
    t.fieldb.toList = shiftedA ∧ t.fieldbLen = 16 := by decide +kernel

/-- PANLEN = 25 gives PanSizeError(25). -/
theorem test_shiftpan_refuses_25 :
    let t := ran 0x03 (loaded { inputsA with panlen := 25 })
    t.readWindow 0x004 = 0x00000506#32 ∧ t.readWindow 0x008 = 25#32 := by decide +kernel

/-- 43_mask R161, the example. -/
theorem test_mask_fields :
    let t := ran 0x04 (((loaded inputsA).putFielda paddedA).putFieldb shiftedA)
    t.blkout.toList = [0x04, 0x58, 0x51, 0xB9, 0xDA, 0x6A, 0x7A, 0xEA] ∧
      t.readWindow 0x01C = 8#32 := by decide +kernel

/-- FIELDA "141234" packs to 3 bytes: LengthMismatchError(0x00030008). -/
theorem test_mask_length_mismatch :
    let t := ran 0x04 (((loaded inputsA).putFielda (digits [1, 4, 1, 2, 3, 4])).putFieldb shiftedA)
    t.readWindow 0x004 = 0x00000606#32 ∧ t.readWindow 0x008 = 0x00030008#32 := by decide +kernel

/-- 41_des_engine R133, the example: "Now is t" under an 8-byte key. -/
theorem test_encrypt_now_is_t :
    let t := ran 0x05 (keyed [0x4E, 0x6F, 0x77, 0x20, 0x69, 0x73, 0x20, 0x74])
    t.blkout.toList = [0x3F, 0xA4, 0x0E, 0x8A, 0x98, 0x4D, 0x48, 0x15] ∧ t.outlen = 8 := by
  decide +kernel

/-- Without a key: KeyNotLoadedError, checked before the length. -/
theorem test_encrypt_without_key :
    (ran 0x105 (loaded inputsA)).readWindow 0x004 = 0x00000806#32 := by decide +kernel

/-- 41_des_engine R134, the example. -/
theorem test_decrypt_pin_block :
    (ran 0x06 (keyed [0xE1, 0x39, 0x6D, 0xE0, 0x2A, 0x72, 0xD7, 0x7A])).blkout.toList =
      [0x04, 0x58, 0x51, 0xB9, 0xDA, 0x6A, 0x7A, 0xEA] := by decide +kernel

/-- With OUTLEN = 0, DECRYPT.OUT gives LengthMismatchError(0x00000008). -/
theorem test_decrypt_out_of_nothing :
    let t := ran 0x106 (keyed [])
    t.readWindow 0x004 = 0x0000060E#32 ∧ t.readWindow 0x008 = 0x00000008#32 := by decide +kernel

/-- 44_bcd_decoder R171: N = 8 gives 458522040708150. -/
theorem test_bcd2dec_eight_bytes :
    (ran 0x00080007 (withBlkout [0x04, 0x58, 0x51, 0xB9, 0xDA, 0x6A, 0x7A, 0xEA])).acc.toNat =
      458522040708150 := by decide +kernel

/-- N = 1 with OUTLEN = 0: InsufficientDataError(1). -/
theorem test_bcd2dec_of_nothing :
    let t := ran 0x00010007 (loaded inputsA)
    t.readWindow 0x004 = 0x00000706#32 ∧ t.readWindow 0x008 = 1#32 := by decide +kernel

/-- 44_bcd_decoder R174, the example: PINOUT = "5810" reads as 0x30313835. -/
theorem test_bcd2ascii_5810 :
    let t := ran 0x00410008 (withBlkout [0x04, 0x58, 0x10, 0xFF, 0xFF, 0xFF, 0xFF, 0xFF])
    t.readWindow 0x0B0 = 0x30313835#32 ∧ t.readWindow 0x0A8 = 4#32 ∧ t.readWindow 0x0B4 = 0#32 := by
  decide +kernel

/-- OFF 7, D 3 gives InsufficientDataError(3). -/
theorem test_bcd2ascii_past_the_end :
    let t := ran 0x00370008 (withBlkout [0x04, 0x58, 0x10, 0xFF, 0xFF, 0xFF, 0xFF, 0xFF])
    t.readWindow 0x004 = 0x00000706#32 ∧ t.readWindow 0x008 = 3#32 := by decide +kernel

/-- V-DOC-1. -/
theorem test_encode_v_doc_1 :
    let t := ran 0x10 (loaded inputsA)
    t.blkout.toList = [0xE1, 0x39, 0x6D, 0xE0, 0x2A, 0x72, 0xD7, 0x7A] ∧
      t.readWindow 0x004 = 0x2#32 := by decide +kernel

/-- PIN "12G4" together with PANLEN 12 gives PanSizeError(12), not HexDecodeError (45_pipelines R190). -/
theorem test_encode_pan_before_hex :
    let t := ran 0x10 (loaded { inputsA with pin := fit 16 [0x31, 0x32, 0x47, 0x34], panlen := 12 })
    t.readWindow 0x004 = 0x00000506#32 ∧ t.readWindow 0x008 = 12#32 := by decide +kernel

/-- V-DOC-3, the first block. -/
theorem test_decode_v_doc_3 :
    let t := ran 0x11 (loaded { inputsA with
      blkin := fit 8 [0xE1, 0x39, 0x6D, 0xE0, 0x2A, 0x72, 0xD7, 0x7A] })
    t.readWindow 0x0B0 = 0x30313835#32 ∧ t.readWindow 0x0A8 = 4#32 := by decide +kernel

/-- 95_test_vectors 2.10: clear byte 0x0B (L = 11) gives ERR(2, 0). -/
theorem test_decode_length_guard :
    let t := ran 0x11 (loaded { inputsA with
      blkin := fit 8 [0xAE, 0x5C, 0x9B, 0xCF, 0xAD, 0xC8, 0xB5, 0x06] })
    t.readWindow 0x004 = 0x00000206#32 ∧ t.readWindow 0x008 = 0#32 := by decide +kernel

/-- Word 0 is illegal: ERR(9, word) (30_encoding R87). -/
theorem test_illegal_word :
    let t := ran 0x00090007 (loaded inputsA)
    t.readWindow 0x004 = 0x00000906#32 ∧ t.readWindow 0x008 = 0x00090007#32 := by decide +kernel

/-! ### The host's port and reset -/

/-- After reset no register holds anything, and a bus read of STATUS returns 0. -/
theorem test_reset_reads_zero : ∀ k < 64, State.reset.readWindow (4 * k) = 0#32 := by decide +kernel

/-- The example of 20_memory R61. -/
theorem test_write_pin_word :
    (State.reset.writeWindow 0x040 0x30313835#32).inputs.pin.toList.take 4 = digits [5, 8, 1, 0] := by
  decide +kernel

/-- `ld.pin "12347"` is its length and two words, the second zero-padded (30_encoding R91). -/
theorem test_ld_pin :
    stmtLdPin (digits [1, 2, 3, 4, 7]) =
      some [stmtWr 0x014 5, stmtWr 0x040 0x34333231#32, stmtWr 0x044 0x00000037#32] := by decide

/-! ### Witnesses: the hypotheses of each obligation are met -/

theorem witness_DecodeIffEncode :
    (Instr.bcd2ascii 7 16).wellFormed = true ∧ decode 0x01070008#32 = .ok (.bcd2ascii 7 16) := by
  decide

theorem witness_IllegalWordsAndTheirOutcome :
    ∃ (s : State) (p : Pending) (r : DecodeError), s.engineTurn p ∧ decode p.word = .error r :=
  ⟨flying 0x00000210#32 0 [], _, .reservedBit, ⟨rfl, rfl⟩, by decide⟩

/-- The last byte of each array is reached, and a byte beside the written word exists. -/
theorem witness_LittleEndianLanes :
    (4 * 5 + 3 < 24 ∧ 4 * 3 + 3 < 16 ∧ 4 * 1 + 3 < 8) ∧ (0 / 4 ≠ 1 ∧ 0 < 8 ∧ 4 * 1 < 8) := by decide

/-- The edges of each range of offsets. -/
theorem witness_WindowAccessKinds :
    ∀ off ∈ [0x004, 0x008, 0x00C, 0x010, 0x014, 0x018, 0x01C, 0x020, 0x034, 0x038, 0x03C, 0x040, 0x06C,
      0x070, 0x0A8, 0x0AC, 0x0B0, 0x0BC, 0x0C0, 0x0FC], off % 4 = 0 ∧ 0 < off ∧ off < 0x100 := by
  decide

theorem witness_BusErrorExactlyWhenUnalignedOrNarrow :
    (hosted [.rd (.window 0x0FE) 4]).hostTurn ∧ (BusAddr.window 0x0FE).offset = some 0x0FE ∧
      (BusAddr.window 0x0FC).offset = some 0x0FC ∧ (BusAddr.window 0x100).offset = none :=
  ⟨hostTurn_of_latch_none rfl, by decide, by decide, by decide⟩

/-- A narrow access and a misaligned one fault; a wide one in the last word does not. -/
theorem test_bus_errors :
    step (hosted [.rd (.window 0x004) 1]) = .fault (.busError 0x004 1) ∧
      step (hosted [.wr (.window 0x0FE) 4 0]) = .fault (.busError 0x0FE 4) ∧
      step (hosted [.rd (.window 0x100) 4]) = .refused (.outsideWindow (.window 0x100)) :=
  ⟨rfl, rfl, rfl⟩

/-- A read of the last word; a `poll` of an idle block; a `poll` with a command in flight. -/
theorem witness_ReadOnlyRecordsItsValue :
    (∃ s : State, s.hostTurn ∧ s.hostOps = [.rd (.window 0x0FC) 4] ∧
      (BusAddr.window 0x0FC).offset = some 0x0FC ∧ 0x0FC % 4 = 0) ∧
    (∃ s : State, s.hostTurn ∧ s.hostOps = [.poll] ∧ s.status.busy = false) ∧
    (∃ s : State, s.hostTurn ∧ s.hostOps = [.poll] ∧ s.status.busy = true) :=
  ⟨⟨hosted [.rd (.window 0x0FC) 4], hostTurn_of_latch_none rfl, rfl, by decide, by decide⟩,
    ⟨hosted [.poll], hostTurn_of_latch_none rfl, rfl, rfl⟩,
    ⟨flying 0x10#32 1 [.poll], fun p hp => by cases hp; decide, rfl, rfl⟩⟩

theorem witness_WriteTouchesInputsOnly :
    ∃ s : State, s.hostTurn ∧ s.hostOps = [.wr (.window 0x00C) 4 7] ∧
      (BusAddr.window 0x00C).offset = some 0x00C ∧ 0x00C % 4 = 0 ∧ 0x00C ≠ 0 :=
  ⟨hosted [.wr (.window 0x00C) 4 7], hostTurn_of_latch_none rfl, rfl, by decide, by decide, by decide⟩

theorem witness_AcceptedWriteIssues :
    ∃ (s : State) (op : HostOp), s.latch = none ∧ s.status.busy = false ∧ s.hostOps = [op] ∧
      op.writesCmd 0x10#32 :=
  ⟨hosted [stmtWr 0x000 0x10#32], _, rfl, rfl, rfl, ⟨_, rfl, by decide⟩⟩

/-- A CMD write on the host's turn while a command is in flight, and a read of CMD. -/
theorem witness_CmdHoldsLastAcceptedWord :
    (∃ (s : State) (op : HostOp), s.hostTurn ∧ s.status.busy = true ∧ s.hostOps = [op] ∧
      op.writesCmd 0x01#32) ∧
    (∃ s : State, s.hostTurn ∧ s.hostOps = [.rd (.window 0) 4] ∧ (BusAddr.window 0).offset = some 0) :=
  ⟨⟨flying 0x10#32 1 [stmtWr 0x000 0x01#32], _, fun p hp => by cases hp; decide, rfl, rfl,
      ⟨_, rfl, by decide⟩⟩,
    ⟨hosted [.rd (.window 0) 4], hostTurn_of_latch_none rfl, rfl, by decide⟩⟩

/-- OVR already set before a step, and not set before one that sets it. -/
theorem witness_OverrunIsSetAndSticky :
    (∃ s t : State, step s = .next t ∧ s.status.ovr = true) ∧
    (∃ s t : State, step s = .next t ∧ s.status.ovr = false ∧ t.status.ovr = true) :=
  ⟨⟨(hosted []).overrun, _, rfl, rfl⟩,
    ⟨flying 0x10#32 1 [stmtWr 0x000 0x01#32], _, rfl, rfl, rfl⟩⟩

theorem witness_StepRunsDecodedCommand :
    ∃ (s : State) (p : Pending), s.engineTurn p ∧ decode p.word = .ok (.bcd2ascii 0 16) :=
  ⟨flying 0x01000008#32 0 [], _, ⟨rfl, rfl⟩, by decide⟩

theorem witness_RunningCommandSeesOnlyItsSnapshot :
    ∃ (s t : State) (p : Pending), s.engineTurn p ∧ step s = .next t :=
  ⟨flying 0x02#32 0 [], _, _, ⟨rfl, rfl⟩, rfl⟩

/-- A host step with a command in flight. -/
theorem witness_HostStepKeepsLatchAndResults :
    ∃ (s t : State) (p : Pending), s.hostTurn ∧ step s = .next t ∧
      (∀ rest, s.hostOps ≠ .assertReset :: rest) ∧ s.latch = some p ∧ s.status.busy = true :=
  ⟨flying 0x10#32 1 [stmtWr 0x00C 3], _, _, fun p hp => by cases hp; decide, rfl,
    (fun rest h => by cases h), rfl, rfl⟩

/-- An EXPAND that succeeds, one that fails, and a reset with a command in flight. -/
theorem witness_KeyvalidOnlyByExpandAndReset :
    (∃ s t : State, exec .expand s = .next t ∧ t.status.err = false) ∧
    (∃ s t : State, exec .expand s = .next t ∧ t.status.err = true) ∧
    (∃ s : State, s.hostTurn ∧ s.hostOps = [.assertReset] ∧ s.status.busy = true) ∧
    State.reset.status.keyvalid = false :=
  ⟨⟨loaded inputsA, _, rfl, rfl⟩, ⟨State.reset, _, rfl, rfl⟩,
    ⟨flying 0x10#32 1 [.assertReset], fun p hp => by cases hp; decide, rfl, rfl⟩, rfl⟩

theorem witness_ResetClearsEverything :
    ∃ s : State, s.hostTurn ∧ s.hostOps = [.assertReset] ∧ s.status.busy = true ∧ s.latch ≠ none :=
  ⟨flying 0x10#32 1 [.assertReset], fun p hp => by cases hp; decide, rfl, rfl, by decide⟩

theorem witness_CommandCompletesWithinItsLatency :
    ∃ (s : State) (p : Pending), s.latch = some p ∧ p.wait = 2 ∧ s.status.busy = true ∧
      ∀ op ∈ s.hostOps, op.legal ∧ op ≠ .assertReset :=
  ⟨flying 0x10#32 2 [stmtRd 0x004, .poll], _, rfl, rfl, rfl, by
    intro op h
    rcases List.mem_cons.1 h with rfl | h
    · exact ⟨⟨0x004, by decide, by decide, rfl⟩, by decide⟩
    · rcases List.mem_cons.1 h with rfl | h
      · exact ⟨trivial, by decide⟩
      · cases h⟩

theorem witness_PollReturnsTheCompletedStatus :
    ∃ (s : State) (p : Pending), s.latch = some p ∧ s.status.busy = true ∧ s.hostOps = [.poll] :=
  ⟨flying 0x10#32 2 [.poll], _, rfl, rfl, rfl⟩

theorem witness_LegalHostNeverStops :
    ∃ s : State, s.hostOps = [stmtWr 0x0FC 0] ∧ ∀ op ∈ s.hostOps, op.legal :=
  ⟨hosted [stmtWr 0x0FC 0], rfl, by
    intro op h
    rcases List.mem_cons.1 h with rfl | h
    · exact ⟨0x0FC, by decide, by decide, rfl⟩
    · cases h⟩

theorem witness_IdleBlockStaysAsItIs : ∃ s : State, s.latch = none ∧ s.hostOps = [] :=
  ⟨State.reset, rfl, rfl⟩

theorem witness_FailureClearsDestinationsOnly :
    (∃ (i : Instr) (s t : State), exec i s = .next t ∧ t.status.err = true) ∧
    (∃ (s t : State) (p : Pending) (r : DecodeError),
      s.engineTurn p ∧ decode p.word = .error r ∧ step s = .next t) :=
  ⟨⟨.padpin, State.reset, _, rfl, rfl⟩,
    ⟨flying 0#32 0 [], _, _, .unknownOp, ⟨rfl, rfl⟩, by decide, rfl⟩⟩

theorem witness_SuccessChangesDestinationsOnly :
    ∃ (i : Instr) (s t : State), exec i s = .next t ∧ t.status.err = false :=
  ⟨.mask .input, State.reset, _, rfl, rfl⟩

/-- Every code 0 to 8 is reached. -/
theorem witness_ErrorCodesAndValues :
    (ran 0x02 (loaded inputsA)).status.errcode = 0 ∧
    (ran 0x02 State.reset).status.errcode = 1 ∧
    (ran 0x03 (loaded { inputsA with format := 1 })).status.errcode = 2 ∧
    (ran 0x11 State.reset).status.errcode = 3 ∧
    (ran 0x04 ((loaded inputsA).putFielda (digits [1]))).status.errcode = 4 ∧
    (ran 0x104 ((loaded inputsA).putFieldb [0x47])).status.errcode = 4 ∧
    (ran 0x03 State.reset).status.errcode = 5 ∧
    (ran 0x105 (keyed [])).status.errcode = 6 ∧
    (ran 0x00010007 State.reset).status.errcode = 7 ∧
    (ran 0x05 State.reset).status.errcode = 8 ∧
    (ran 0x00 State.reset).status.errcode = 9 := by decide +kernel

/-- Each legal key length, and lengths beside them. -/
theorem witness_ExpandLoadsRepeatedKey :
    (loaded { inputsA with keylen := 8 }).snapshot.keylen = 8 ∧
    (loaded inputsA).snapshot.keylen = 16 ∧
    (loaded { inputsA with keylen := 24 }).snapshot.keylen = 24 ∧
    ¬ ((loaded { inputsA with keylen := 9 }).snapshot.keylen = 8 ∨
      (loaded { inputsA with keylen := 9 }).snapshot.keylen = 16 ∨
      (loaded { inputsA with keylen := 9 }).snapshot.keylen = 24) ∧
    ¬ ((loaded { inputsA with keylen := 25 }).snapshot.keylen = 8 ∨
      (loaded { inputsA with keylen := 25 }).snapshot.keylen = 16 ∨
      (loaded { inputsA with keylen := 25 }).snapshot.keylen = 24) := by decide +kernel

theorem witness_ShortKeysActAsTheirExpansion :
    (∀ i, ∀ h : i < 24, (fit 24 (keyA ++ keyA ++ keyA))[i] = (fit 24 keyA)[i % 8]) ∧
    (∀ i, ∀ h : i < 24, (fit 24 (keyA ++ keyB ++ keyA))[i] = (fit 24 (keyA ++ keyB))[i % 16]) ∧
    subKey (fit 24 (keyA ++ keyA ++ keyA)) 0 = subKey (fit 24 (keyA ++ keyA ++ keyA)) 1 ∧
    subKey (fit 24 (keyA ++ keyA ++ keyA)) 1 = subKey (fit 24 (keyA ++ keyA ++ keyA)) 2 := by
  decide +kernel

theorem witness_ParityBitsDoNotMatter :
    (0x0123456789ABCDEF#64 ^^^ 0x0022446688AACCEE#64) &&& 0xFEFEFEFEFEFEFEFE#64 = 0 ∧
      0x0123456789ABCDEF#64 ≠ 0x0022446688AACCEE#64 := by decide +kernel

/-- No key; a key and no 8 bytes in BLKOUT; a key and a block to take from either register. -/
theorem witness_EncryptResult :
    (loaded inputsA).status.keyvalid = false ∧
    ((keyed []).status.keyvalid = true ∧ (keyed []).outlen ≠ 8) ∧
    (((keyed []).putBlkout keyA).status.keyvalid = true ∧ ((keyed []).putBlkout keyA).outlen = 8) := by
  decide +kernel

theorem witness_DecryptResult :
    (loaded inputsA).status.keyvalid = false ∧
    ((keyed keyA).status.keyvalid = true ∧ (keyed keyA).outlen ≠ 8) ∧
    (((keyed []).putBlkout keyB).status.keyvalid = true ∧ ((keyed []).putBlkout keyB).outlen = 8) := by
  decide +kernel

theorem witness_EncryptOutThenDecryptOutRestores :
    ∃ s : State, s.status.keyvalid = true ∧ s.outlen = 8 :=
  ⟨(keyed []).putBlkout keyA, rfl, rfl⟩

/-- PADPIN with FORMAT `f` and PINLEN `pl`: which clause applies. -/
def padClause (f : Byte) (pl : Word) : Nat :=
  let x := (loaded { inputsA with format := f, pinlen := pl }).snapshot
  if ¬ (1 ≤ x.pinlen.toNat ∧ x.pinlen.toNat ≤ 9) then 1
  else if x.format ≠ 0 ∧ x.format ≠ 1 ∧ x.format ≠ 3 then 2
  else if x.format = 0 then 3
  else 4

/-- Both edges of PINLEN, a length beside each, each format and a format outside. -/
theorem witness_PadpinResult :
    padClause 0 0 = 1 ∧ padClause 7 10 = 1 ∧ padClause 2 1 = 2 ∧ padClause 255 9 = 2 ∧
    padClause 0 1 = 3 ∧ padClause 0 9 = 3 ∧ padClause 1 1 = 4 ∧ padClause 1 9 = 4 ∧
    padClause 3 1 = 4 ∧ padClause 3 9 = 4 := by decide +kernel

/-- SHIFTPAN with FORMAT `f` and PANLEN `pl`: which clause applies. -/
def shiftClause (f : Byte) (pl : Word) : Nat :=
  let x := (loaded { inputsA with format := f, panlen := pl }).snapshot
  if x.format ≠ 0 then 1
  else if ¬ (13 ≤ x.panlen.toNat ∧ x.panlen.toNat ≤ 24) then 2
  else 3

/-- Both edges of PANLEN, a length beside each, and a format that is not 0. -/
theorem witness_ShiftpanResult :
    shiftClause 1 16 = 1 ∧ shiftClause 3 12 = 1 ∧ shiftClause 0 12 = 2 ∧ shiftClause 0 25 = 2 ∧
    shiftClause 0 13 = 3 ∧ shiftClause 0 24 = 3 := by decide +kernel

/-- Fields that pack, one of odd length, and one with a character that is no hexadecimal digit. -/
theorem witness_PackPairsNibbles :
    (paddedA.length % 2 = 0 ∧ ∀ c ∈ paddedA, isHexChar c = true) ∧
    ¬ ((digits [1]).length % 2 = 0 ∧ ∀ c ∈ digits [1], isHexChar c = true) ∧
    ¬ (([0x47, 0x30] : List Byte).length % 2 = 0 ∧
      ∀ c ∈ ([0x47, 0x30] : List Byte), isHexChar c = true) := by decide +kernel

theorem witness_XorBuffersLaws :
    keyA.length = keyB.length ∧ keyA.length ≠ paddedA.length := by decide +kernel

/-- Each clause: FIELDA or FIELDB that does not pack, lengths that differ, lengths that agree. -/
theorem witness_MaskResult :
    pack .paddedPin (digits [1]) = .error (.hexDecode .paddedPin) ∧
    pack .shiftedPan [0x47, 0x30] = .error (.hexDecode .shiftedPan) ∧
    (∃ a b, pack .paddedPin (digits [1, 4, 1, 2, 3, 4]) = .ok a ∧ pack .shiftedPan shiftedA = .ok b ∧
      a.length ≠ b.length) ∧
    (∃ a b, pack .paddedPin paddedA = .ok a ∧ pack .shiftedPan shiftedA = .ok b ∧
      a.length = b.length) ∧
    (∃ a b, pack .paddedPin [] = .ok a ∧ pack .shiftedPan [] = .ok b ∧ a.length = b.length) :=
  ⟨rfl, rfl, ⟨_, _, rfl, rfl, by decide +kernel⟩, ⟨_, _, rfl, rfl, by decide +kernel⟩, ⟨_, _, rfl, rfl, by decide +kernel⟩⟩

/-- A block and a packed field to mask it with: the state of `witness_MaskOutTwiceRestores`. -/
def masked : State := ((withBlkout keyA).putFieldb shiftedA).issue 0x104#32 0

theorem masked_inv : masked.Inv where
  busy_latch := rfl
  busy_clear := by decide +kernel
  err_code := by decide +kernel
  code_range := by decide +kernel
  info_clear := fun _ => rfl
  key_clear := fun _ => rfl
  outlen := .inr rfl
  fieldaLen := .inl rfl
  fieldbLen := .inr rfl
  pinoutLen := by decide +kernel
  blkout_tail := by unfold tailClear; decide +kernel
  fielda_tail := by unfold tailClear; decide +kernel
  fieldb_tail := by unfold tailClear; decide +kernel
  pinout_tail := by unfold tailClear; decide +kernel
  pinout_chars := by decide +kernel
  acc_bound := by decide +kernel

theorem witness_MaskOutTwiceRestores :
    ∃ s t : State, s.Inv ∧ s.runCommand (.mask .blkout) = .next t ∧ t.status.err = false :=
  ⟨masked, _, masked_inv, rfl, by decide +kernel⟩

theorem witness_StepKeepsInvariant : ∃ s t : State, s.Inv ∧ step s = .next t ∧ t.status.err = false :=
  ⟨masked, _, masked_inv, rfl, by decide +kernel⟩

theorem witness_BcdToDecimalBound : (List.replicate 8 0xFF#8).length ≤ 8 := by decide +kernel

/-- N on both sides of OUTLEN, and both edges of N. -/
theorem witness_Bcd2decResult :
    (Instr.bcd2dec 8).wellFormed = true ∧ (8#4).toNat ≤ (withBlkout keyA).outlen.toNat ∧
    (Instr.bcd2dec 1).wellFormed = true ∧ (loaded inputsA).outlen.toNat < (1#4).toNat ∧
    (Instr.bcd2dec 0).wellFormed = true ∧ (0#4).toNat ≤ (loaded inputsA).outlen.toNat ∧
    9 ≤ (9#4).toNat := by decide +kernel

/-- All 16 digits of 8 bytes; 2 and 3 digits of the last byte; an offset past OUTLEN. -/
theorem witness_Bcd2asciiResult :
    (withBlkout keyA).outlen.toNat = 8 ∧
    ((Instr.bcd2ascii 0 16).wellFormed = true ∧ ((16#5).toNat + 1) / 2 ≤ 8 - (0#4).toNat) ∧
    ((Instr.bcd2ascii 7 2).wellFormed = true ∧ ((2#5).toNat + 1) / 2 ≤ 8 - (7#4).toNat) ∧
    ((Instr.bcd2ascii 7 3).wellFormed = true ∧ 8 - (7#4).toNat < ((3#5).toNat + 1) / 2) ∧
    ((Instr.bcd2ascii 7 0).wellFormed = true ∧
      ((0#5).toNat + 1) / 2 ≤ (loaded inputsA).outlen.toNat - (7#4).toNat) := by decide +kernel

/-- The standard inputs with the longest PIN and PAN. -/
def inputsLong : Inputs :=
  { inputsA with
    keylen := 24, pinlen := 9, pin := fit 16 (digits [1, 2, 3, 4, 5, 6, 7, 8, 9]),
    panlen := 24, pan := fit 24 (panA ++ digits [1, 2, 3, 4, 5, 6, 7, 8]) }

/-- The hypotheses of ENCODE's result at both ends of both lengths. -/
theorem witness_EncodeResult :
    ∀ x ∈ [inputsLong, { inputsA with keylen := 8, pinlen := 1, panlen := 13 }],
      (x.keylen = 8 ∨ x.keylen = 16 ∨ x.keylen = 24) ∧ x.format = 0 ∧
      1 ≤ x.pinlen.toNat ∧ x.pinlen.toNat ≤ 9 ∧ 13 ≤ x.panlen.toNat ∧ x.panlen.toNat ≤ 24 ∧
      (∀ i, i < x.pinlen.toNat → isHexChar (x.pin.toList.getD i 0) = true) ∧
      (∀ i, i < x.panlen.toNat - 1 → x.panlen.toNat - 13 ≤ i →
        isHexChar (x.pan.toList.getD i 0) = true) := by
  decide +kernel

/-- One state for each check ENCODE can fail at, the earlier ones passed. -/
theorem witness_EncodeErrorOrder :
    (ran 0x10 (loaded { inputsA with keylen := 10, pinlen := 0 })).readWindow 0x008 = 10#32 ∧
    (ran 0x10 (loaded { inputsA with pinlen := 10, format := 7 })).readWindow 0x004 = 0x106#32 ∧
    (ran 0x10 (loaded { inputsA with format := 1, panlen := 12 })).readWindow 0x008 = 1#32 ∧
    (ran 0x10 (loaded { inputsA with format := 3, panlen := 12 })).readWindow 0x008 = 3#32 ∧
    (ran 0x10 (loaded { inputsA with panlen := 25 })).readWindow 0x004 = 0x506#32 ∧
    (ran 0x10 (loaded { inputsA with
      pin := fit 16 [0x47], pinlen := 1, pan := fit 24 [0x31, 0x47], panlen := 13 })).readWindow 0x008 =
      1#32 ∧
    (ran 0x10 (loaded { inputsA with pan := fit 24 [0x31, 0x47], panlen := 13 })).readWindow 0x008 =
      2#32 := by decide +kernel

/-- The longest length DECODE passes. -/
theorem witness_DecodeResult :
    ∃ (s : State) (key : Vector Byte 24) (sf b : List Byte),
      expandKey s.snapshot.key s.snapshot.keylen = .ok key ∧ s.snapshot.format = 0 ∧
      shiftPan s.snapshot.format s.snapshot.pan s.snapshot.panlen = .ok sf ∧
      pack .shiftedPan sf = .ok b ∧
      bcdToDecimal ((bytesOfBlock (tdesD key (blockOfBytes s.snapshot.blkin.toList) ^^^
        blockOfBytes b)).take 1) = 10 :=
  ⟨loaded { inputsA with blkin := fit 8 blockTen }, _, _, _, rfl, rfl, rfl, rfl,
    by decide +kernel⟩

/-- One state for each check DECODE can fail at, the earlier ones passed. -/
theorem witness_DecodeErrorOrder :
    (ran 0x11 (loaded { inputsA with keylen := 10, format := 3 })).readWindow 0x008 = 10#32 ∧
    (ran 0x11 (loaded { inputsA with format := 1, panlen := 12 })).readWindow 0x008 = 1#32 ∧
    (ran 0x11 (loaded { inputsA with format := 3 })).readWindow 0x004 = 0x206#32 ∧
    (ran 0x11 (loaded { inputsA with panlen := 25 })).readWindow 0x004 = 0x506#32 ∧
    (ran 0x11 (loaded { inputsA with pan := fit 24 [0x31, 0x47], panlen := 13 })).readWindow 0x008 =
      2#32 := by decide +kernel

theorem witness_EncodeThenDecodeReturnsThePin :
    ∀ x ∈ [inputsLong, { inputsA with keylen := 8, pinlen := 1, panlen := 13 }],
      x.format = 0 ∧ (x.keylen = 8 ∨ x.keylen = 16 ∨ x.keylen = 24) ∧
      1 ≤ x.pinlen.toNat ∧ x.pinlen.toNat ≤ 9 ∧ 13 ≤ x.panlen.toNat ∧ x.panlen.toNat ≤ 24 ∧
      (∀ i, ∀ h : i < 16, i < x.pinlen.toNat → isDecimalChar x.pin[i] = true) ∧
      (∀ i, ∀ h : i < 24, i < x.panlen.toNat → isDecimalChar x.pan[i] = true) := by
  decide +kernel

/-- Two states with other results of earlier commands and the same inputs. -/
theorem witness_PipelinesDependOnInputsOnly :
    ∃ s s' : State, s.blkout ≠ s'.blkout ∧
      s'.snapshot = { s.snapshot with blkin := s'.snapshot.blkin } ∧
      s'.snapshot = { s.snapshot with pin := s'.snapshot.pin, pinlen := s'.snapshot.pinlen } :=
  ⟨loaded inputsA, withBlkout keyA, by decide +kernel, rfl, rfl⟩

theorem witness_EncodeEqualsItsPrimitives :
    ∃ s e : State, s.runCommand .encode = .next e ∧ e.status.err = false :=
  ⟨loaded inputsA, _, rfl, by decide +kernel⟩

theorem witness_DecodeEqualsItsPrimitives :
    ∃ s e : State, s.runCommand .decode = .next e ∧ e.status.err = false :=
  ⟨loaded { inputsA with blkin := fit 8 blockTen }, _, rfl, by decide +kernel⟩

/-- The longest operand of each loading statement, one that leaves bytes of its last word and words
above it, an empty one, and `ld.fmt`. -/
theorem witness_LoadStatementsFillRegisters :
    (∃ ops, (hosted ops).latch = none ∧ stmtLdPin (List.replicate 16 0x31) = some ops) ∧
    (∃ ops, (hosted ops).latch = none ∧ stmtLdPan (List.replicate 24 0x31) = some ops) ∧
    (∃ ops, (hosted ops).latch = none ∧ stmtLdKey (List.replicate 24 0x31) = some ops) ∧
    (∃ ops, (hosted ops).latch = none ∧ stmtLdBlk keyA = some ops) ∧
    (∃ ops, (hosted ops).latch = none ∧ stmtLdPin (List.replicate 5 0x31) = some ops) ∧
    (∃ ops, (hosted ops).latch = none ∧ stmtLdPan [] = some ops) ∧
    ((hosted (stmtLdFmt 0x103)).latch = none ∧ (hosted (stmtLdFmt 0x103)).hostOps = stmtLdFmt 0x103) :=
  ⟨⟨_, rfl, rfl⟩, ⟨_, rfl, rfl⟩, ⟨_, rfl, rfl⟩, ⟨_, rfl, rfl⟩, ⟨_, rfl, rfl⟩, ⟨_, rfl, rfl⟩, rfl, rfl⟩

end Sys2Proof.Tests
end

/-! PROOFS of the state family (10_state): CMD (R22), KEYVALID with KX (R26) and OVR (R27). -/

namespace Sys2Proof.Machine

section

variable {s t : State}

/-! ### A host step, one lemma per statement of the host -/

@[simp] theorem State.passed_hostOps (rest : List HostOp) : (s.passed rest).hostOps = rest := rfl

@[simp] theorem readWindow_passed (rest : List HostOp) (off : Nat) :
    (s.passed rest).readWindow off = s.readWindow off := by
  unfold State.readWindow
  cases locate off <;> rfl

@[simp] theorem readWindow_zero : s.readWindow 0 = s.cmd := rfl

/-- A write to CMD on the host's turn, accepted or discarded. -/
theorem step_of_writesCmd {op : HostOp} {w : Word} {rest : List HostOp} (ht : s.hostTurn)
    (ho : s.hostOps = op :: rest) (hw : op.writesCmd w) :
    step s = .next ((s.passed rest).writeCmd w) := by
  obtain ⟨at_, rfl, h0⟩ := hw
  rw [step_of_hostTurn ht, ho]
  simp only [State.hostStep, State.passed_hostOps, State.hostOp, access_offset h0, writeWindow_cmd]
  rfl

/-- A CMD write while BUSY = 1 sets OVR and does nothing else (10_state R27, 60_exceptions R219). -/
theorem step_of_writesCmd_busy {op : HostOp} {w : Word} {rest : List HostOp} (ht : s.hostTurn)
    (hb : s.status.busy = true) (ho : s.hostOps = op :: rest) (hw : op.writesCmd w) :
    step s = .next (s.passed rest).overrun := by
  rw [step_of_writesCmd ht ho hw, writeCmd_busy (s := s.passed rest) hb]

/-- A CMD write while BUSY = 0 issues its word (60_exceptions R212). -/
theorem step_of_writesCmd_idle {op : HostOp} {w : Word} {rest : List HostOp} (ht : s.hostTurn)
    (hb : s.status.busy = false) (ho : s.hostOps = op :: rest) (hw : op.writesCmd w) :
    step s = .next { (s.passed rest).issue w (Config.latency s.draws) with
      draws := s.draws + 1 } := by
  rw [step_of_writesCmd ht ho hw, writeCmd_idle (s := s.passed rest) hb]
  rfl

/-- An aligned read changes nothing but the host's own lists (20_memory R63). -/
theorem step_of_rd {at_ : BusAddr} {off : Nat} {rest : List HostOp} (ht : s.hostTurn)
    (ho : s.hostOps = .rd at_ 4 :: rest) (hoff : at_.offset = some off) (h4 : off % 4 = 0) :
    step s = .next { s.passed rest with reads := s.readWindow off :: s.reads } := by
  rw [step_of_hostTurn ht, ho, ← readWindow_passed rest off]
  simp only [State.hostStep, State.passed_hostOps, State.hostOp, access_offset hoff, h4]
  rfl

theorem step_of_assertReset {rest : List HostOp} (ht : s.hostTurn)
    (ho : s.hostOps = .assertReset :: rest) : step s = .next (s.passed rest).resetBlock := by
  rw [step_of_hostTurn ht, ho]
  rfl

/-! ### A completion step -/

theorem sameBut_failedWith (s : State) (d : Dest) (code : BitVec 8) (info : Word) :
    s.SameBut d (s.failedWith d code info) := by
  cases d <;> constructor <;> simp [State.failedWith, State.cleared]

/-- A command changes its own destinations, STATUS, ERRINFO and the latch only. -/
theorem exec_sameBut {i : Instr} (h : exec i s = .next t) : s.SameBut (destOf i) t := by
  rcases exec_outcome i s with ⟨u, hu, hs⟩ | ⟨e, he, -⟩
  · rw [hu] at h; cases h
    exact sameBut_succeed hs
  · rw [he] at h; cases h
    exact sameBut_failedWith s _ _ _

theorem destOf_eq_key {i : Instr} : destOf i = .key ↔ i = .expand := by
  cases i <;> simp [destOf]

/-- EXPAND (40_key_expander R101): it loads KX, or clears it. -/
theorem exec_expand_cases (h : exec .expand s = .next t) :
    (∃ x, expandKey s.snapshot.key s.snapshot.keylen = .ok x ∧ t = (s.putKx x).succeed) ∨
    (∃ e, expandKey s.snapshot.key s.snapshot.keylen = .error e ∧ t = s.clearKx.fail e) := by
  cases h
  exact complete_cases _ _ _

theorem cipherBlock_of_keyvalid_false (hk : s.status.keyvalid = false) (src : Src) :
    s.cipherBlock src = .error .keyNotLoaded := by
  unfold State.cipherBlock
  exact if_pos hk

/-- Without a key a cipher command fails with KeyNotLoadedError, whatever it would store. -/
theorem complete_cipherBlock_of_keyvalid_false (hk : s.status.keyvalid = false) (src : Src)
    (store : State → Block → State) :
    s.complete (s.cipherBlock src) store State.clearBlkout = s.failedWith .blkout 8 0 := by
  rw [complete_error (cipherBlock_of_keyvalid_false hk src), clearBlkout_eq]
  exact fail_cleared .blkout .keyNotLoaded

/-- ENCRYPT and DECRYPT need a key (41_des_engine R133, R134). -/
theorem exec_cipher_of_keyvalid_false (hk : s.status.keyvalid = false) (src : Src) :
    exec (.encrypt src) s = .next (s.failedWith .blkout 8 0) ∧
    exec (.decrypt src) s = .next (s.failedWith .blkout 8 0) :=
  ⟨congrArg _ (complete_cipherBlock_of_keyvalid_false hk src _),
    congrArg _ (complete_cipherBlock_of_keyvalid_false hk src _)⟩

/-! ### What a step does to CMD, STATUS and the key -/

/-- KEYVALID and KX of `t` are those of `s`. -/
def State.SameKey (s t : State) : Prop := t.status.keyvalid = s.status.keyvalid ∧ t.kx = s.kx

/-- What one step from `s` to `t` does to CMD, STATUS and KX, by the kind of the step. -/
inductive State.Moves (s t : State) : Prop
  /-- The completion step of the word in the latch. -/
  | completed (p : Pending) (turn : s.engineTurn p) (cmd : t.cmd = s.cmd)
      (ovr : t.status.ovr = s.status.ovr) (key : s.SameKey t ∨ decode p.word = .ok .expand)
  /-- The reset input is asserted. -/
  | reset (turn : s.hostTurn) (rest : List HostOp) (next : s.hostOps = .assertReset :: rest)
  /-- An accepted CMD write. -/
  | issued (turn : s.hostTurn) (op : HostOp) (w : Word) (rest : List HostOp)
      (next : s.hostOps = op :: rest) (writes : op.writesCmd w) (idle : s.status.busy = false)
      (cmd : t.cmd = w) (ovr : t.status.ovr = false) (key : s.SameKey t)
  /-- A discarded CMD write. -/
  | overran (turn : s.hostTurn) (op : HostOp) (w : Word) (rest : List HostOp)
      (next : s.hostOps = op :: rest) (writes : op.writesCmd w) (busy : s.status.busy = true)
      (cmd : t.cmd = s.cmd) (ovr : t.status.ovr = true) (key : s.SameKey t)
  /-- Any other host step. -/
  | quiet (turn : s.hostTurn) (cmd : t.cmd = s.cmd) (status : t.status = s.status)
      (kx : t.kx = s.kx)

theorem exec_moves {p : Pending} {i : Instr} (hp : s.engineTurn p) (hd : decode p.word = .ok i)
    (h : exec i s = .next t) : s.Moves t := by
  have hs := exec_sameBut h
  refine .completed p hp hs.cmd hs.ovr ?_
  by_cases hi : i = .expand
  · exact .inr (hi ▸ hd)
  · obtain ⟨hkx, hkv⟩ := hs.key (fun hk => hi (destOf_eq_key.1 hk))
    exact .inl ⟨hkv, hkx⟩

theorem hostStep_moves (ht : s.hostTurn) (h : (s.passed s.hostOps).hostStep = .next t) :
    s.Moves t := by
  rcases hostStep_cases h with ⟨-, rfl⟩ | ⟨_, -, -, rfl⟩ | ⟨_, -, -, rfl⟩ | ⟨_, _, _, -, -, -, rfl⟩ |
    ⟨at_, w, rest, ho, h0, hb, rfl⟩ | ⟨at_, w, rest, ho, h0, hb, rfl⟩ |
    ⟨_, _, _, _, -, -, -, -, rfl⟩ | ⟨rest, ho, rfl⟩
  · exact .quiet ht rfl rfl rfl
  · exact .quiet ht rfl rfl rfl
  · exact .quiet ht rfl rfl rfl
  · exact .quiet ht rfl rfl rfl
  · exact .overran ht _ w rest ho ⟨at_, rfl, h0⟩ hb rfl rfl ⟨rfl, rfl⟩
  · exact .issued ht _ w rest ho ⟨at_, rfl, h0⟩ hb rfl rfl ⟨rfl, rfl⟩
  · exact .quiet ht rfl rfl rfl
  · exact .reset ht rest ho

theorem step_moves (h : step s = .next t) : s.Moves t := by
  rcases step_cases h with ⟨p, i, hp, hd, hx⟩ | ⟨p, r, hp, -, rfl⟩ | ⟨ht, hh⟩
  · exact exec_moves hp hd hx
  · exact .completed p hp rfl rfl (.inl ⟨rfl, rfl⟩)
  · exact hostStep_moves ht hh

/-! ### CMD -/

theorem step_cmd (h : step s = .next t) :
    t.cmd = s.cmd ∨ (s.hostTurn ∧ ∃ rest, s.hostOps = .assertReset :: rest) ∨
      (s.hostTurn ∧ ∃ op w rest,
        s.hostOps = op :: rest ∧ op.writesCmd w ∧ s.status.busy = false ∧ t.cmd = w) := by
  cases step_moves h with
  | completed _ _ cmd => exact .inl cmd
  | reset turn rest next => exact .inr (.inl ⟨turn, rest, next⟩)
  | issued turn op w rest next writes idle cmd =>
    exact .inr (.inr ⟨turn, op, w, rest, next, writes, idle, cmd⟩)
  | overran _ _ _ _ _ _ _ cmd => exact .inl cmd
  | quiet _ cmd => exact .inl cmd

/-! ### OVR -/

theorem step_keeps_ovr (h : step s = .next t) (hs : s.status.ovr = true) :
    t.status.ovr = true ∨ (s.hostTurn ∧ ∃ rest, s.hostOps = .assertReset :: rest) ∨
      (s.hostTurn ∧ ∃ op w rest,
        s.hostOps = op :: rest ∧ op.writesCmd w ∧ s.status.busy = false) := by
  cases step_moves h with
  | completed _ _ _ ovr => exact .inl (ovr.trans hs)
  | reset turn rest next => exact .inr (.inl ⟨turn, rest, next⟩)
  | issued turn op w rest next writes idle =>
    exact .inr (.inr ⟨turn, op, w, rest, next, writes, idle⟩)
  | overran _ _ _ _ _ _ _ _ ovr => exact .inl ovr
  | quiet _ _ status => exact .inl (status ▸ hs)

theorem step_sets_ovr (h : step s = .next t) (hs : s.status.ovr = false)
    (hset : t.status.ovr = true) :
    s.hostTurn ∧ ∃ op w rest, s.hostOps = op :: rest ∧ op.writesCmd w ∧ s.status.busy = true := by
  cases step_moves h with
  | completed _ _ _ ovr => simp [ovr, hs] at hset
  | reset turn rest next =>
    rw [step_of_assertReset turn next] at h
    cases h; cases hset
  | issued _ _ _ _ _ _ _ _ ovr => simp [ovr] at hset
  | overran turn op w rest next writes busy => exact ⟨turn, op, w, rest, next, writes, busy⟩
  | quiet _ _ status => simp [status, hs] at hset

/-! ### KEYVALID and KX -/

theorem exec_expand_of_success (h : exec .expand s = .next t) (he : t.status.err = false) :
    t.status.keyvalid = true ∧ expandKey s.snapshot.key s.snapshot.keylen = .ok t.kx := by
  rcases exec_expand_cases h with ⟨x, hx, rfl⟩ | ⟨e, -, rfl⟩
  · exact ⟨rfl, hx⟩
  · cases he

theorem exec_expand_of_failure (h : exec .expand s = .next t) (he : t.status.err = true) :
    t.status.keyvalid = false ∧ t.kx = Vector.replicate 24 0 := by
  rcases exec_expand_cases h with ⟨x, -, rfl⟩ | ⟨e, -, rfl⟩
  · cases he
  · exact ⟨rfl, rfl⟩

theorem step_key (h : step s = .next t) :
    s.SameKey t ∨ (s.hostTurn ∧ ∃ rest, s.hostOps = .assertReset :: rest) ∨
      ∃ p, s.engineTurn p ∧ decode p.word = .ok .expand := by
  cases step_moves h with
  | completed p turn _ _ key => exact key.imp_right fun hd => .inr ⟨p, turn, hd⟩
  | reset turn rest next => exact .inr (.inl ⟨turn, rest, next⟩)
  | issued _ _ _ _ _ _ _ _ _ key => exact .inl key
  | overran _ _ _ _ _ _ _ _ _ key => exact .inl key
  | quiet _ _ status kx => exact .inl ⟨by rw [status], kx⟩

end

/-! ### The obligations -/

/-- Settles O13: the two CMD writes and the read by the lemma of that host step, the rest by the kinds
of a step. -/
theorem cmdHoldsLastAcceptedWord : Obligations.CmdHoldsLastAcceptedWord := by
  refine ⟨?accepted, ?discarded, fun s => readWindow_zero, fun s t => step_cmd, ?read, rfl,
    .unknownOp, by decide⟩
  case accepted =>
    intro s op w rest hl hb ho hw
    exact ⟨_, _, step_of_writesCmd_idle (hostTurn_of_latch_none hl) hb ho hw, rfl, rfl, rfl, rfl⟩
  case discarded =>
    intro s op w rest ht hb ho hw
    exact step_of_writesCmd_busy ht hb ho hw
  case read =>
    intro s at_ rest ht ho h0
    exact step_of_rd ht ho h0 rfl

/-- Settles O14: the two CMD writes by the lemma of that host step, the rest by the kinds of a step. -/
theorem overrunIsSetAndSticky : Obligations.OverrunIsSetAndSticky := by
  refine ⟨?overrun, fun s t => step_keeps_ovr, fun s t => step_sets_ovr, ?accepted, rfl⟩
  case overrun =>
    intro s op w rest ht hb ho hw
    exact step_of_writesCmd_busy ht hb ho hw
  case accepted =>
    intro s op w rest hl hb ho hw
    exact ⟨_, step_of_writesCmd_idle (hostTurn_of_latch_none hl) hb ho hw, rfl⟩

/-- Settles O18: EXPAND by its two outcomes, the other steps by the kinds of a step. -/
theorem keyvalidOnlyByExpandAndReset : Obligations.KeyvalidOnlyByExpandAndReset :=
  ⟨fun _ _ => exec_expand_of_success, fun _ _ => exec_expand_of_failure,
    fun _ _ ht ho => ⟨_, step_of_assertReset ht ho, rfl⟩, fun _ _ => step_key,
    fun _ src hk => exec_cipher_of_keyvalid_false hk src, rfl⟩

end Sys2Proof.Machine

/-! PROOFS of the memory family (20_memory): the little-endian lanes of the byte arrays (R61). -/

namespace Sys2Proof.Machine

section

variable {n j k : Nat} {s : State} {v : Word}

/-! ### A bus word at a word-aligned index of a byte array -/

theorem getElem_setLanes_lane (a : Vector Byte n) (v : Word) (hk : k < 4) (h : 4 * j + k < n) :
    (setLanes a (4 * j) v)[4 * j + k] = byteOfWord v k := by
  rw [getElem_setLanes, if_pos (by omega), Nat.add_sub_cancel_left]

theorem getElem_setLanes_beside {i : Nat} (a : Vector Byte n) (v : Word) (hi : i / 4 ≠ j)
    (h : i < n) : (setLanes a (4 * j) v)[i] = a[i] := by
  rw [getElem_setLanes, if_neg (by omega)]

/-! ### A write to an input array -/

theorem writeWindow_key (h : j < 6) :
    (s.writeWindow (0x020 + 4 * j) v).inputs.key = setLanes s.inputs.key (4 * j) v := by
  rw [writeWindow_of_ne (by omega), locate_key h, Loc.store]

theorem writeWindow_pin (h : j < 4) :
    (s.writeWindow (0x040 + 4 * j) v).inputs.pin = setLanes s.inputs.pin (4 * j) v := by
  rw [writeWindow_of_ne (by omega), locate_pin h, Loc.store]

theorem writeWindow_pan (h : j < 6) :
    (s.writeWindow (0x050 + 4 * j) v).inputs.pan = setLanes s.inputs.pan (4 * j) v := by
  rw [writeWindow_of_ne (by omega), locate_pan h, Loc.store]

theorem writeWindow_blkin (h : j < 2) :
    (s.writeWindow (0x068 + 4 * j) v).inputs.blkin = setLanes s.inputs.blkin (4 * j) v := by
  rw [writeWindow_of_ne (by omega), locate_blkin h, Loc.store]

/-! ### A read of a byte array -/

theorem readWindow_pin (h : j < 4) : s.readWindow (0x040 + 4 * j) = lanes s.inputs.pin (4 * j) := by
  rw [State.readWindow, locate_pin h, Loc.read]

theorem readWindow_pan (h : j < 6) : s.readWindow (0x050 + 4 * j) = lanes s.inputs.pan (4 * j) := by
  rw [State.readWindow, locate_pan h, Loc.read]

theorem readWindow_blkin (h : j < 2) :
    s.readWindow (0x068 + 4 * j) = lanes s.inputs.blkin (4 * j) := by
  rw [State.readWindow, locate_blkin h, Loc.read]

theorem readWindow_blkout (h : j < 2) : s.readWindow (0x070 + 4 * j) = lanes s.blkout (4 * j) := by
  rw [State.readWindow, locate_blkout h, Loc.read]

theorem readWindow_fielda (h : j < 4) : s.readWindow (0x080 + 4 * j) = lanes s.fielda (4 * j) := by
  rw [State.readWindow, locate_fielda h, Loc.read]

theorem readWindow_fieldb (h : j < 4) : s.readWindow (0x090 + 4 * j) = lanes s.fieldb (4 * j) := by
  rw [State.readWindow, locate_fieldb h, Loc.read]

theorem readWindow_pinout (h : j < 4) : s.readWindow (0x0B0 + 4 * j) = lanes s.pinout (4 * j) := by
  rw [State.readWindow, locate_pinout h, Loc.read]

end

/-- Settles O5: each access is `setLanes` or `lanes` of its array, and the laws of bus words give
both byte by byte. -/
theorem littleEndianLanes : Obligations.LittleEndianLanes := by
  refine ⟨?written, ?beside, ?read, ?digits5810⟩
  case written =>
    intro s v j k hk
    refine ⟨fun h => ?key, fun h => ?pin, fun h => ?pan, fun h => ?blkin⟩
    case key => rw [writeWindow_key (by omega)]; exact getElem_setLanes_lane _ v hk h
    case pin => rw [writeWindow_pin (by omega)]; exact getElem_setLanes_lane _ v hk h
    case pan => rw [writeWindow_pan (by omega)]; exact getElem_setLanes_lane _ v hk h
    case blkin => rw [writeWindow_blkin (by omega)]; exact getElem_setLanes_lane _ v hk h
  case beside =>
    intro s v j i hi
    refine ⟨fun h hj => ?key, fun h hj => ?pin, fun h hj => ?pan, fun h hj => ?blkin⟩
    case key => rw [writeWindow_key (by omega)]; exact getElem_setLanes_beside _ v hi h
    case pin => rw [writeWindow_pin (by omega)]; exact getElem_setLanes_beside _ v hi h
    case pan => rw [writeWindow_pan (by omega)]; exact getElem_setLanes_beside _ v hi h
    case blkin => rw [writeWindow_blkin (by omega)]; exact getElem_setLanes_beside _ v hi h
  case read =>
    intro s j k hk
    refine ⟨fun h => ?pin, fun h => ?pan, fun h => ?blkin, fun h => ?blkout, fun h => ?fielda,
      fun h => ?fieldb, fun h => ?pinout⟩
    case pin => rw [readWindow_pin (by omega)]; exact byteOfWord_lanes _ _ k hk h
    case pan => rw [readWindow_pan (by omega)]; exact byteOfWord_lanes _ _ k hk h
    case blkin => rw [readWindow_blkin (by omega)]; exact byteOfWord_lanes _ _ k hk h
    case blkout => rw [readWindow_blkout (by omega)]; exact byteOfWord_lanes _ _ k hk h
    case fielda => rw [readWindow_fielda (by omega)]; exact byteOfWord_lanes _ _ k hk h
    case fieldb => rw [readWindow_fieldb (by omega)]; exact byteOfWord_lanes _ _ k hk h
    case pinout => rw [readWindow_pinout (by omega)]; exact byteOfWord_lanes _ _ k hk h
  case digits5810 =>
    intro s
    have pin : (s.writeWindow 0x040 0x30313835#32).inputs.pin = setLanes s.inputs.pin 0 _ :=
      writeWindow_pin (j := 0) (by omega)
    simp only [pin, getElem_setLanes]
    exact ⟨rfl, rfl, rfl, rfl⟩

end Sys2Proof.Machine

/-! PROOFS of the encoding family (30_encoding): the rows of the opcode map (R86) and the illegal
words (R87). -/

namespace Sys2Proof

section

variable {w m : Word} {i j : Instr} {mk : Src → Instr} {op : BitVec 8} {src : BitVec 1}
  {bytef : BitVec 4} {digf : BitVec 5}

/-! ### A word and its fields -/

/-- A word is the one its fields and its clear reserved bits make it. -/
theorem eq_assemble_iff : w = assemble op src bytef digf ↔
    reservedClear w = true ∧ opField w = op ∧ srcField w = src ∧ byteField w = bytef ∧
      digitField w = digf := by
  constructor
  · rintro rfl
    simp
  · rintro ⟨hr, rfl, rfl, rfl, rfl⟩
    exact (assemble_fields w hr).symm

theorem srcField_eq_zero_iff : srcField w = 0#1 ↔ w.getLsbD 8 = false := by
  simp [BitVec.eq_of_getLsbD_eq_iff, srcField]

theorem srcField_eq_srcBit_iff {s : Src} :
    srcField w = srcBit s ↔ (w.getLsbD 8 = true ↔ s = .blkout) := by
  cases s with
  | input => simp [srcBit, srcField_eq_zero_iff]
  | blkout => simp [srcBit, BitVec.eq_of_getLsbD_eq_iff, srcField]

theorem reservedClear_eq_false_iff : reservedClear w = false ↔
    w.extractLsb' 9 7 ≠ 0 ∨ w.extractLsb' 25 7 ≠ 0 := by
  simp [reservedClear, imp_iff_not_or]

/-! ### A masked word (30_encoding R86, "Match" and "Mask") -/

/-- The fields of a masked word are the masked fields, under a mask that keeps OP and the reserved
bits. -/
theorem and_eq_assemble_iff (hop : opField m = .allOnes 8) (hlo : m.extractLsb' 9 7 = .allOnes 7)
    (hhi : m.extractLsb' 25 7 = .allOnes 7) :
    w &&& m = assemble op src bytef digf ↔
      reservedClear w = true ∧ opField w = op ∧ srcField w &&& srcField m = src ∧
        byteField w &&& byteField m = bytef ∧ digitField w &&& digitField m = digf := by
  have hr : reservedClear (w &&& m) = reservedClear w := by
    simp only [reservedClear, BitVec.extractLsb'_and, hlo, hhi, BitVec.and_allOnes]
  have ho : opField (w &&& m) = opField w := by
    rw [← BitVec.and_allOnes (x := opField w), ← hop]
    exact BitVec.extractLsb'_and
  rw [eq_assemble_iff, hr, ho]
  simp only [srcField, byteField, digitField, BitVec.extractLsb'_and]

/-- The mask of a command that uses SRC only. -/
theorem and_srcMask_eq_iff :
    w &&& 0xFFFFFEFF#32 = assemble op 0#1 0#4 0#5 ↔ w = assemble op (srcField w) 0#4 0#5 := by
  rw [and_eq_assemble_iff (by decide) (by decide) (by decide), eq_assemble_iff,
    show srcField 0xFFFFFEFF#32 = 0#1 by decide, show byteField 0xFFFFFEFF#32 = .allOnes 4 by decide,
    show digitField 0xFFFFFEFF#32 = .allOnes 5 by decide]
  simp only [BitVec.and_allOnes, BitVec.and_zero, true_and]

/-- The mask of BCD2DEC, which uses BYTEF only. -/
theorem and_byteMask_eq_iff :
    w &&& 0xFFF0FFFF#32 = assemble op 0#1 0#4 0#5 ↔ w = assemble op 0#1 (byteField w) 0#5 := by
  rw [and_eq_assemble_iff (by decide) (by decide) (by decide), eq_assemble_iff,
    show srcField 0xFFF0FFFF#32 = .allOnes 1 by decide, show byteField 0xFFF0FFFF#32 = 0#4 by decide,
    show digitField 0xFFF0FFFF#32 = .allOnes 5 by decide]
  simp only [BitVec.and_allOnes, BitVec.and_zero, true_and]

/-- The mask of BCD2ASCII, which uses BYTEF and DIGF. -/
theorem and_byteDigitMask_eq_iff :
    w &&& 0xFE00FFFF#32 = assemble op 0#1 0#4 0#5 ↔
      w = assemble op 0#1 (byteField w) (digitField w) := by
  rw [and_eq_assemble_iff (by decide) (by decide) (by decide), eq_assemble_iff,
    show srcField 0xFE00FFFF#32 = .allOnes 1 by decide, show byteField 0xFE00FFFF#32 = 0#4 by decide,
    show digitField 0xFE00FFFF#32 = 0#5 by decide]
  simp only [BitVec.and_allOnes, BitVec.and_zero, and_true]

/-! ### The four kinds of rows (30_encoding R86) -/

theorem decodePlain_eq_ok_iff : decodePlain w i = .ok j ↔
    (srcField w = 0#1 ∧ byteField w = 0#4 ∧ digitField w = 0#5) ∧ i = j := by
  unfold decodePlain
  split_ifs with h <;> simp [h]

theorem decodeSrc_eq_ok_iff : decodeSrc w mk = .ok j ↔
    (byteField w = 0#4 ∧ digitField w = 0#5) ∧ mk (srcOf (srcField w)) = j := by
  unfold decodeSrc
  split_ifs with h <;> simp [h]

theorem decodeBcd2dec_eq_ok_iff : decodeBcd2dec w = .ok j ↔
    (srcField w = 0#1 ∧ digitField w = 0#5) ∧ byteCountLegal (byteField w) = true ∧
      .bcd2dec (byteField w) = j := by
  unfold decodeBcd2dec
  split_ifs with h hn <;> simp_all

theorem decodeBcd2ascii_eq_ok_iff : decodeBcd2ascii w = .ok j ↔
    srcField w = 0#1 ∧ byteOffsetLegal (byteField w) = true ∧
      digitCountLegal (digitField w) = true ∧ .bcd2ascii (byteField w) (digitField w) = j := by
  unfold decodeBcd2ascii
  split_ifs with h ho hd <;> simp_all

/-- OP is in no row of the map (R81, R87). -/
def UnknownOp (op : BitVec 8) : Prop := op = 0#8 ∨ (0x09#8 ≤ op ∧ op ≤ 0x0F#8) ∨ 0x12#8 ≤ op

/-- OP of a row that uses SRC (R82). -/
def UsesSrc (op : BitVec 8) : Prop := 4#8 ≤ op ∧ op ≤ 6#8

/-- OP of a row that uses no field. -/
def UsesNoField (op : BitVec 8) : Prop := ¬ UnknownOp op ∧ ¬ UsesSrc op ∧ op ≠ 7#8 ∧ op ≠ 8#8

theorem usesSrc_iff : UsesSrc op ↔ op = 0x04#8 ∨ op = 0x05#8 ∨ op = 0x06#8 := by
  unfold UsesSrc
  revert op
  decide

theorem usesNoField_iff : UsesNoField op ↔
    op = 0x01#8 ∨ op = 0x02#8 ∨ op = 0x03#8 ∨ op = 0x10#8 ∨ op = 0x11#8 := by
  unfold UsesNoField UnknownOp UsesSrc
  revert op
  decide

theorem UsesSrc.usesNoOther (h : UsesSrc op) : ¬ UnknownOp op ∧ op ≠ 7#8 ∧ op ≠ 8#8 := by
  unfold UnknownOp
  rcases usesSrc_iff.1 h with rfl | rfl | rfl <;> decide

theorem unknownOp_or (op : BitVec 8) :
    UnknownOp op ∨ UsesNoField op ∨ UsesSrc op ∨ op = 7#8 ∨ op = 8#8 := by
  unfold UsesNoField
  tauto

/-- The row a word without reserved bits is decoded by: the sub-decoder, the commands it can give
and their words. -/
inductive RowOf (w : Word) : Prop
  | plain (i : Instr) (op : UsesNoField (opField w)) (decodes : decode w = decodePlain w i)
      (legal : i.wellFormed = true) (word : encode i = assemble (opField w) 0#1 0#4 0#5)
  | withSrc (mk : Src → Instr) (op : UsesSrc (opField w)) (decodes : decode w = decodeSrc w mk)
      (legal : ∀ s, (mk s).wellFormed = true)
      (word : ∀ s, encode (mk s) = assemble (opField w) (srcBit s) 0#4 0#5)
  | bcd2dec (op : opField w = 7#8) (decodes : decode w = decodeBcd2dec w)
  | bcd2ascii (op : opField w = 8#8) (decodes : decode w = decodeBcd2ascii w)
  | unknown (op : UnknownOp (opField w)) (decodes : decode w = .error .unknownOp)

theorem rowOf (hr : reservedClear w = true) : RowOf w := by
  have e := decode.eq_1 w
  rcases unknownOp_or (opField w) with hu | hn | hs | h7 | h8
  · have ne : ∀ op, ¬ UnknownOp op → opField w ≠ op := fun op h he => h (he ▸ hu)
    unfold UnknownOp at ne
    exact .unknown hu (by simp [e, hr, ne])
  · rcases usesNoField_iff.1 hn with h | h | h | h | h <;> simp only [hr, h] at e <;>
      exact .plain _ hn e rfl (h ▸ rfl)
  · rcases usesSrc_iff.1 hs with h | h | h <;> simp only [hr, h] at e <;>
      exact .withSrc _ hs e (fun _ => rfl) (fun _ => h ▸ rfl)
  · simp only [hr, h7] at e
    exact .bcd2dec h7 e
  · simp only [hr, h8] at e
    exact .bcd2ascii h8 e

/-- A word decodes to a command exactly when it is the word of the command (30_encoding R86, R89). -/
theorem decode_eq_ok_iff : decode w = .ok i ↔ i.wellFormed = true ∧ w = encode i := by
  constructor
  · intro h
    have hr := reservedClear_of_decode h
    have hw := (assemble_fields w hr).symm
    cases rowOf hr with
    | plain i _ decodes legal word =>
      rw [decodes, decodePlain_eq_ok_iff] at h
      obtain ⟨⟨hs, hb, hd⟩, rfl⟩ := h
      rw [hs, hb, hd, ← word] at hw
      exact ⟨legal, hw⟩
    | withSrc mk _ decodes legal word =>
      rw [decodes, decodeSrc_eq_ok_iff] at h
      obtain ⟨⟨hb, hd⟩, rfl⟩ := h
      rw [hb, hd, ← srcBit_srcOf (srcField w), ← word] at hw
      exact ⟨legal _, hw⟩
    | bcd2dec op decodes =>
      rw [decodes, decodeBcd2dec_eq_ok_iff] at h
      obtain ⟨⟨hs, hd⟩, legal, rfl⟩ := h
      rw [op, hs, hd] at hw
      exact ⟨legal, hw⟩
    | bcd2ascii op decodes =>
      rw [decodes, decodeBcd2ascii_eq_ok_iff] at h
      obtain ⟨hs, ho, hn, rfl⟩ := h
      rw [op, hs] at hw
      exact ⟨by simp [Instr.wellFormed, ho, hn], hw⟩
    | unknown _ decodes =>
      rw [decodes] at h
      cases h
  · rintro ⟨legal, rfl⟩
    cases i with
    | expand | padpin | shiftpan | encode | decode => rfl
    | mask src | encrypt src | decrypt src => cases src <;> rfl
    | bcd2dec n =>
      simp only [Instr.wellFormed] at legal
      simp [encode, decode, decodeBcd2dec, legal]
    | bcd2ascii off d =>
      simp only [Instr.wellFormed, Bool.and_eq_true] at legal
      simp [encode, decode, decodeBcd2ascii, legal]

/-! ### Illegal words (30_encoding R87) -/

theorem exists_error_iff {α ε : Type} {x : Except ε α} :
    (∃ r, x = .error r) ↔ ¬ ∃ a, x = .ok a := by
  cases x <;> simp

theorem byteCountLegal_iff {n : BitVec 4} : byteCountLegal n = true ↔ ¬ 9#4 ≤ n := by
  simp [byteCountLegal, BitVec.lt_def, Nat.lt_succ_iff]

theorem byteOffsetLegal_iff {n : BitVec 4} : byteOffsetLegal n = true ↔ ¬ 8#4 ≤ n := by
  simp [byteOffsetLegal, BitVec.lt_def, Nat.lt_succ_iff]

theorem digitCountLegal_iff {d : BitVec 5} : digitCountLegal d = true ↔ ¬ 17#5 ≤ d := by
  simp [digitCountLegal, BitVec.lt_def, Nat.lt_succ_iff]

theorem decodePlain_rejects_iff : (∃ r, decodePlain w i = .error r) ↔
    srcField w ≠ 0#1 ∨ byteField w ≠ 0#4 ∨ digitField w ≠ 0#5 := by
  simp [exists_error_iff, decodePlain_eq_ok_iff, imp_iff_not_or]

theorem decodeSrc_rejects_iff : (∃ r, decodeSrc w mk = .error r) ↔
    byteField w ≠ 0#4 ∨ digitField w ≠ 0#5 := by
  simp [exists_error_iff, decodeSrc_eq_ok_iff, imp_iff_not_or]

theorem decodeBcd2dec_rejects_iff : (∃ r, decodeBcd2dec w = .error r) ↔
    srcField w ≠ 0#1 ∨ digitField w ≠ 0#5 ∨ 9#4 ≤ byteField w := by
  simp [exists_error_iff, decodeBcd2dec_eq_ok_iff, byteCountLegal_iff, imp_iff_not_or,
    or_assoc]

theorem decodeBcd2ascii_rejects_iff : (∃ r, decodeBcd2ascii w = .error r) ↔
    srcField w ≠ 0#1 ∨ 8#4 ≤ byteField w ∨ 17#5 ≤ digitField w := by
  simp [exists_error_iff, decodeBcd2ascii_eq_ok_iff, byteOffsetLegal_iff, digitCountLegal_iff,
    imp_iff_not_or]

/-- The cases of R87: an unknown OP, a reserved bit, a field its row does not use, a field out of
range. -/
def IllegalWord (w : Word) : Prop :=
  UnknownOp (opField w) ∨ reservedClear w = false ∨
  (srcField w ≠ 0#1 ∧ ¬ UsesSrc (opField w)) ∨
  (byteField w ≠ 0#4 ∧ opField w ≠ 7#8 ∧ opField w ≠ 8#8) ∨
  (digitField w ≠ 0#5 ∧ opField w ≠ 8#8) ∨
  (opField w = 7#8 ∧ 9#4 ≤ byteField w) ∨
  (opField w = 8#8 ∧ 8#4 ≤ byteField w) ∨
  (opField w = 8#8 ∧ 17#5 ≤ digitField w)

theorem illegalWord_iff : IllegalWord w ↔ ∃ r, decode w = .error r := by
  cases hr : reservedClear w with
  | false => simp [IllegalWord, decode, hr]
  | true =>
    cases rowOf hr with
    | plain i op decodes =>
      obtain ⟨hu, hs, h7, h8⟩ := op
      simp [IllegalWord, decodes, decodePlain_rejects_iff, hr, hu, hs, h7, h8]
    | withSrc mk op decodes =>
      obtain ⟨hu, h7, h8⟩ := op.usesNoOther
      simp [IllegalWord, decodes, decodeSrc_rejects_iff, hr, op, hu, h7, h8]
    | bcd2dec op decodes =>
      simp [IllegalWord, decodes, decodeBcd2dec_rejects_iff, hr, op, UnknownOp, UsesSrc]
    | bcd2ascii op decodes =>
      simp [IllegalWord, decodes, decodeBcd2ascii_rejects_iff, hr, op, UnknownOp, UsesSrc]
    | unknown op decodes => simp [IllegalWord, decodes, op]

/-! ### A row by match and mask (30_encoding R86) -/

/-- A row whose mask is the whole word. -/
theorem decode_eq_ok_iff_word (hl : i.wellFormed = true) (hm : encode i = m) :
    decode w = .ok i ↔ w &&& 0xFFFFFFFF#32 = m := by
  rw [decode_eq_ok_iff, hm, show 0xFFFFFFFF#32 = .allOnes 32 from rfl, BitVec.and_allOnes]
  exact and_iff_right hl

/-- A row that uses SRC. -/
theorem decode_eq_ok_iff_srcMask {s : Src} (hl : (mk s).wellFormed = true)
    (he : encode (mk s) = assemble op (srcBit s) 0#4 0#5) (hm : assemble op 0#1 0#4 0#5 = m) :
    decode w = .ok (mk s) ↔ w &&& 0xFFFFFEFF#32 = m ∧ (w.getLsbD 8 = true ↔ s = .blkout) := by
  rw [decode_eq_ok_iff, he, ← hm, and_srcMask_eq_iff, ← srcField_eq_srcBit_iff, eq_assemble_iff,
    eq_assemble_iff]
  tauto

theorem decode_eq_ok_bcd2dec_iff {n : BitVec 4} : decode w = .ok (.bcd2dec n) ↔
    w &&& 0xFFF0FFFF#32 = 0x00000007#32 ∧ byteField w = n ∧ n.toNat ≤ 8 := by
  rw [decode_eq_ok_iff, encode, show 0x00000007#32 = assemble 7#8 0#1 0#4 0#5 by decide,
    and_byteMask_eq_iff, eq_assemble_iff, eq_assemble_iff]
  simp only [Instr.wellFormed, byteCountLegal, decide_eq_true_iff]
  tauto

theorem decode_eq_ok_bcd2ascii_iff {off : BitVec 4} {d : BitVec 5} :
    decode w = .ok (.bcd2ascii off d) ↔ w &&& 0xFE00FFFF#32 = 0x00000008#32 ∧ byteField w = off ∧
      off.toNat ≤ 7 ∧ digitField w = d ∧ d.toNat ≤ 16 := by
  rw [decode_eq_ok_iff, encode, show 0x00000008#32 = assemble 8#8 0#1 0#4 0#5 by decide,
    and_byteDigitMask_eq_iff, eq_assemble_iff, eq_assemble_iff]
  simp only [Instr.wellFormed, byteOffsetLegal, digitCountLegal, Bool.and_eq_true,
    decide_eq_true_iff]
  tauto

end

/-- Settles O2: a word decodes to a command exactly when it is the command's word, and a mask keeps
the fields the row fixes. -/
theorem opcodeMapRows : Obligations.OpcodeMapRows := by
  intro w
  exact ⟨decode_eq_ok_iff_word rfl rfl, decode_eq_ok_iff_word rfl rfl,
    decode_eq_ok_iff_word rfl rfl, fun _ => decode_eq_ok_iff_srcMask rfl rfl rfl,
    fun _ => decode_eq_ok_iff_srcMask rfl rfl rfl, fun _ => decode_eq_ok_iff_srcMask rfl rfl rfl,
    fun _ => decode_eq_ok_bcd2dec_iff, fun _ _ => decode_eq_ok_bcd2ascii_iff,
    decode_eq_ok_iff_word rfl rfl, decode_eq_ok_iff_word rfl rfl⟩

end Sys2Proof

namespace Sys2Proof.Machine

/-- The completion step of an illegal word (30_encoding R87). -/
theorem step_of_illegal {s : State} {p : Pending} {r : DecodeError} (hp : s.engineTurn p)
    (hd : decode p.word = .error r) : step s = .next (s.rejectWord p.word) := by
  rw [step_of_engineTurn hp, engineStep, hd]

/-- Settles O4: the illegal words by the row of their OP, the outcome by the completion step. -/
theorem illegalWordsAndTheirOutcome : Obligations.IllegalWordsAndTheirOutcome := by
  refine ⟨?cases, ?outcome⟩
  case cases =>
    intro w
    rw [← illegalWord_iff, IllegalWord, UnknownOp, reservedClear_eq_false_iff, ne_eq (srcField w),
      srcField_eq_zero_iff, Bool.not_eq_false]
    simp only [or_assoc]
    exact Iff.rfl
  case outcome =>
    intro s p r hp hd
    exact step_of_illegal hp hd

end Sys2Proof.Machine

/-! PROOFS of the key-expander family (40_key_expander): EXPAND (R100, R101). -/

namespace Sys2Proof.Machine

section

variable {key x : Vector Byte 24} {kl : Word} {s : State}

/-! ### The expanded key (40_key_expander R100) -/

/-- The first `n` bytes of KEY over and over, 24 bytes in all (40_key_expander R100). -/
def repeatedKey (key : Vector Byte 24) (n : Nat) : Vector Byte 24 :=
  Vector.ofFn fun i => key[i.val % n]'(Nat.lt_of_le_of_lt (Nat.mod_le _ _) i.isLt)

@[simp] theorem getElem_repeatedKey (key : Vector Byte 24) (n i : Nat) (h : i < 24) :
    (repeatedKey key n)[i] = key[i % n]'(Nat.lt_of_le_of_lt (Nat.mod_le _ _) h) := by
  simp [repeatedKey]

theorem repeatedKey_24 (key : Vector Byte 24) : repeatedKey key 24 = key := by
  apply Vector.ext
  intro i h
  simp [Nat.mod_eq_of_lt h]

/-- A byte of a piece of KEY, at the place the repetition takes it from. -/
theorem getD_take_key {n i j : Nat} (hn : j < n) (hi : i < 24) (hj : j = i) :
    ((key.toList.take n)[j]?).getD 0#8 = key[i] := by
  subst hj
  simp [hn, hi]

/-- Three copies of the first 8 bytes: byte `i` is in the first, the second or the third. -/
theorem fit_three_copies (key : Vector Byte 24) :
    fit 24 (key.toList.take 8 ++ key.toList.take 8 ++ key.toList.take 8) = repeatedKey key 8 := by
  apply Vector.ext
  intro i h
  simp only [getElem_fit, getElem_repeatedKey, List.getD_eq_getElem?_getD, List.getElem?_append,
    List.length_append, List.length_take, Vector.length_toList]
  split_ifs <;> exact getD_take_key (by omega) (by omega) (by omega)

/-- The first 16 bytes and the first 8 again: byte `i` is in the one piece or the other. -/
theorem fit_two_keys_and_first (key : Vector Byte 24) :
    fit 24 (key.toList.take 16 ++ key.toList.take 8) = repeatedKey key 16 := by
  apply Vector.ext
  intro i h
  simp only [getElem_fit, getElem_repeatedKey, List.getD_eq_getElem?_getD, List.getElem?_append,
    List.length_take, Vector.length_toList]
  split_ifs <;> exact getD_take_key (by omega) (by omega) (by omega)

theorem expandKey_eq_repeatedKey (h : kl = 8 ∨ kl = 16 ∨ kl = 24) :
    expandKey key kl = .ok (repeatedKey key kl.toNat) := by
  rcases h with rfl | rfl | rfl
  · exact congrArg _ (fit_three_copies key)
  · exact congrArg _ (fit_two_keys_and_first key)
  · exact congrArg _ (repeatedKey_24 key).symm

/-! ### The completion step of EXPAND (40_key_expander R101) -/

theorem exec_expand_of_ok (h : expandKey s.snapshot.key s.snapshot.keylen = .ok x) :
    exec .expand s = .next (s.putKx x).succeed :=
  congrArg _ (complete_ok h _ _)

theorem exec_expand_of_error {e : CmdError}
    (h : expandKey s.snapshot.key s.snapshot.keylen = .error e) :
    exec .expand s = .next (s.failedWith .key e.code e.info) := by
  rw [← fail_cleared, ← clearKx_eq]
  exact congrArg _ (complete_error h _ _)

end

/-- Settles O28: a legal KEYLEN expands KEY to its repetition, which EXPAND puts in KX; for any
other the expansion is the error EXPAND fails with. -/
theorem expandLoadsRepeatedKey : Obligations.ExpandLoadsRepeatedKey := by
  refine ⟨rfl, fun s => ⟨fun hlegal => ?loaded, fun hillegal => ?refused⟩⟩
  case loaded =>
    have hx := expandKey_eq_repeatedKey (key := s.snapshot.key) hlegal
    have hs := sameBut_putKx s (repeatedKey s.snapshot.key s.snapshot.keylen.toNat)
    exact ⟨_, exec_expand_of_ok hx, hx, getElem_repeatedKey _ _, rfl, succeededFrom_succeed hs,
      sameBut_succeed hs⟩
  case refused =>
    have he := expandKey_of_illegal (key := s.snapshot.key) hillegal
    exact ⟨he, exec_expand_of_error he⟩

end Sys2Proof.Machine

/-! PROOFS of the DES-engine family (41_des_engine): decryption undoes encryption (R129), and the
outcomes of ENCRYPT and DECRYPT (R133, R134). -/

namespace Sys2Proof.Machine

section

variable {s : State} {src : Src}

/-! ### The Feistel rounds undone (41_des_engine R128, R129) -/

/-- The rounds under the reversed keys, from the halves swapped, give the halves swapped back. -/
theorem rounds_reverse_rounds (keys : List (BitVec 48)) (l r : BitVec 32) :
    rounds keys.reverse (rounds keys l r).2 (rounds keys l r).1 = (r, l) := by
  induction keys generalizing l r with
  | nil => rfl
  | cons k ks ih =>
    have hfirst : rounds (k :: ks) l r = rounds ks r (l ^^^ roundF r k) := rfl
    have hlast : rounds [k] (l ^^^ roundF r k) r = (r, l) := by simp [rounds]
    rw [hfirst, List.reverse_cons, rounds_append, ih, hlast]

/-! ### A permutation undone (41_des_engine R110, R112) -/

/-- The bit of the source that bit `i` of a permutation by `table` is, both `n` bits wide. -/
def sourceBit (n : Nat) (table : List Nat) (i : Nat) : Nat := n - table.getD (n - 1 - i) 0

/-- Two permutations of which each bit comes back to its place. -/
theorem permute_permute {n : Nat} {outer inner : List Nat} (ho : outer.length = n)
    (hi : inner.length = n)
    (h : ∀ i < n, sourceBit n outer i < n ∧ sourceBit n inner (sourceBit n outer i) = i)
    (v : BitVec n) : permute n outer (permute n inner v) = v := by
  apply BitVec.eq_of_getLsbD_eq
  intro i hlt
  obtain ⟨hsource, hback⟩ := h i hlt
  calc (permute n outer (permute n inner v)).getLsbD i
      = (permute n inner v).getLsbD (sourceBit n outer i) := getLsbD_permute outer _ ho i hlt
    _ = v.getLsbD (sourceBit n inner (sourceBit n outer i)) := getLsbD_permute inner v hi _ hsource
    _ = v.getLsbD i := by rw [hback]

theorem permute_IP_permute_FP (v : Block) : permute 64 tableIP (permute 64 tableFP v) = v :=
  permute_permute length_tableIP length_tableFP (by decide) v

theorem permute_FP_permute_IP (v : Block) : permute 64 tableFP (permute 64 tableIP v) = v :=
  permute_permute length_tableFP length_tableIP (by decide) v

/-! ### The transformation undone (41_des_engine R129) -/

/-- For any round keys: IP cancels the FP before it, the rounds run backwards, FP cancels IP. -/
theorem desWith_reverse_desWith (keys : List (BitVec 48)) (x : Block) :
    desWith keys.reverse (desWith keys x) = x := by
  simp only [desWith, permute_IP_permute_FP, hiHalf_append, loHalf_append, rounds_reverse_rounds,
    append_halves, permute_FP_permute_IP]

/-! ### One block through a cipher command (41_des_engine R133, R134) -/

/-- The completion step of a cipher command with the block transformation `f`. -/
def State.ciphered (s : State) (f : Block → Block) (src : Src) : State :=
  s.complete (s.cipherBlock src) (fun t x => t.putBlkout (bytesOfBlock (f x))) State.clearBlkout

theorem exec_encrypt : exec (.encrypt src) s = .next (s.ciphered (tdesE s.kx) src) := rfl

theorem exec_decrypt : exec (.decrypt src) s = .next (s.ciphered (tdesD s.kx) src) := rfl

/-- The 8 bytes a cipher command takes its block from (30_encoding R82). -/
def State.cipherSource (s : State) : Src → List Byte
  | .input => s.snapshot.blkin.toList
  | .blkout => s.blkout.toList

theorem cipherBlock_of_outlen_ne (hk : s.status.keyvalid = true) (hs : src = .blkout)
    (ho : s.outlen ≠ 8) : s.cipherBlock src = .error (.lengthMismatch s.outlen.toNat 8) := by
  have hn : s.outlen.toNat ≠ 8 := fun h => ho (BitVec.eq_of_toNat_eq h)
  simp [State.cipherBlock, hk, hs, hn]

theorem cipherBlock_of_checks (hk : s.status.keyvalid = true) (ho : src = .blkout → s.outlen = 8) :
    s.cipherBlock src = .ok (blockOfBytes (s.cipherSource src)) := by
  cases src with
  | input => simp [State.cipherBlock, State.cipherSource, hk]
  | blkout => simp [State.cipherBlock, State.cipherSource, hk, ho rfl]

/-- ERRINFO of a LengthMismatchError: LEN_A above bit 16, LEN_B below it (60_exceptions R211). -/
theorem info_lengthMismatch (a : Nat) {b : Nat} (hb : b < 2 ^ 16) :
    (CmdError.lengthMismatch a b).info = BitVec.ofNat 32 (a * 2 ^ 16 + b) := by
  rw [CmdError.info, ← Nat.shiftLeft_eq, Nat.shiftLeft_add_eq_or_of_lt hb, BitVec.ofNat_or,
    Nat.shiftLeft_eq, BitVec.ofNat_mul, BitVec.shiftLeft_eq_mul_twoPow]
  rfl

theorem ciphered_of_outlen_ne (f : Block → Block) (hk : s.status.keyvalid = true)
    (hs : src = .blkout) (ho : s.outlen ≠ 8) :
    s.ciphered f src =
      s.failedWith .blkout 6 (BitVec.ofNat 32 (s.outlen.toNat * 2 ^ 16 + 8)) := by
  rw [State.ciphered, complete_error (cipherBlock_of_outlen_ne hk hs ho), clearBlkout_eq,
    fail_cleared, info_lengthMismatch _ (by decide)]
  rfl

theorem ciphered_of_checks (f : Block → Block) (hk : s.status.keyvalid = true)
    (ho : src = .blkout → s.outlen = 8) :
    s.ciphered f src =
      (s.putBlkout (bytesOfBlock (f (blockOfBytes (s.cipherSource src))))).succeed :=
  complete_ok (cipherBlock_of_checks hk ho) _ _

theorem ciphered_result (f : Block → Block) (hk : s.status.keyvalid = true)
    (ho : src = .blkout → s.outlen = 8) :
    blockOfBytes (s.ciphered f src).blkout.toList = f (blockOfBytes (s.cipherSource src)) ∧
    (s.ciphered f src).outlen = 8 ∧ s.SucceededFrom (s.ciphered f src) ∧
    s.SameBut .blkout (s.ciphered f src) := by
  rw [ciphered_of_checks f hk ho]
  generalize f (blockOfBytes (s.cipherSource src)) = y
  have hs := sameBut_putBlkout s (bytesOfBlock y)
  exact ⟨blockOfBytes_bytesOfBlock y, rfl, succeededFrom_succeed hs, sameBut_succeed hs⟩

/-- The two checks of a cipher command, in order, and its result. -/
theorem cipher_outcome {i : Instr} {f : Block → Block}
    (h : exec i s = .next (s.ciphered f src)) :
    (s.status.keyvalid = false → exec i s = .next (s.failedWith .blkout 8 0)) ∧
    (s.status.keyvalid = true → src = .blkout → s.outlen ≠ 8 →
      exec i s = .next (s.failedWith .blkout 6 (BitVec.ofNat 32 (s.outlen.toNat * 2 ^ 16 + 8)))) ∧
    (s.status.keyvalid = true → (src = .blkout → s.outlen = 8) →
      ∃ t, exec i s = .next t ∧
        blockOfBytes t.blkout.toList = f (blockOfBytes (s.cipherSource src)) ∧
        t.outlen = 8 ∧ s.SucceededFrom t ∧ s.SameBut .blkout t) := by
  rw [h]
  refine ⟨fun hk => ?noKey, fun hk hs ho => ?noBlock, fun hk ho => ?result⟩
  case noKey => exact congrArg _ (complete_cipherBlock_of_keyvalid_false hk src _)
  case noBlock => exact congrArg _ (ciphered_of_outlen_ne f hk hs ho)
  case result => exact ⟨_, rfl, ciphered_result f hk ho⟩

end

/-- Settles O30: DES undone for any list of round keys, taken for the sixteen of the schedule. -/
theorem desDecryptUndoesEncrypt : Obligations.DesDecryptUndoesEncrypt :=
  ⟨fun k _ => ⟨length_schedule k, rfl, rfl⟩, fun k => desWith_reverse_desWith (schedule k)⟩

/-- Settles O34: the outcome of a cipher command, for triple-DES encryption under KX. -/
theorem encryptResult : Obligations.EncryptResult :=
  ⟨rfl, rfl, fun _ _ => cipher_outcome exec_encrypt⟩

/-- Settles O35: the outcome of a cipher command, for triple-DES decryption under KX. -/
theorem decryptResult : Obligations.DecryptResult :=
  ⟨rfl, rfl, fun _ _ => cipher_outcome exec_decrypt⟩

end Sys2Proof.Machine

/-! PROOFS of the format-encoder family (42_format_encoder): PADPIN (R140, R141), SHIFTPAN (R142,
R143), the nibble of a character (R144) and the nibble packer (R145). -/

namespace Sys2Proof.Machine

section

variable {fmt : Byte} {pin : Vector Byte 16} {pan : Vector Byte 24} {pl : Word} {s : State}
  {fill i : Nat}

/-! ### The padded PIN field (42_format_encoder R140) -/

/-- A control character, a length character, the PIN, and `fill` fill characters. -/
def paddedField (fmt : Byte) (pin : Vector Byte 16) (pl : Word) (fill : Nat) : List Byte :=
  (charZero + fmt) :: (charZero + pl.setWidth 8) ::
    (pin.toList.take pl.toNat ++ List.replicate fill charFill)

theorem padPin_of_length_illegal (h : ¬ (1 ≤ pl.toNat ∧ pl.toNat ≤ 9)) :
    padPin fmt pin pl = .error (.pinSize pl) :=
  if_pos (by simp only [Config.pinMin, Config.pinMax]; omega)

theorem padPin_of_length_legal (h1 : 1 ≤ pl.toNat) (h9 : pl.toNat ≤ 9) :
    padPin fmt pin pl =
      if fmt = 0 then .ok (paddedField 0 pin pl (14 - pl.toNat))
      else if fmt = 1 ∨ fmt = 3 then .ok (paddedField fmt pin pl 0)
      else .error (.isoFormat fmt) := by
  have hl : ¬ (pl.toNat < Config.pinMin ∨ Config.pinMax < pl.toNat) := by
    simp only [Config.pinMin, Config.pinMax]; omega
  rw [padPin, if_neg hl]
  simp [paddedField]

theorem length_take_pin (h9 : pl.toNat ≤ 9) : (pin.toList.take pl.toNat).length = pl.toNat := by
  rw [List.length_take, Vector.length_toList]
  omega

theorem length_paddedField (h9 : pl.toNat ≤ 9) :
    (paddedField fmt pin pl fill).length = 2 + pl.toNat + fill := by
  simp only [paddedField, List.length_cons, List.length_append, List.length_replicate,
    length_take_pin h9]
  omega

theorem toNat_charZero_add {d : Byte} (h : d.toNat ≤ 9) :
    (charZero + d).toNat = 0x30 + d.toNat := by
  rw [BitVec.toNat_add, Nat.mod_eq_of_lt (show (charZero).toNat + d.toNat < 2 ^ 8 by simp; omega)]
  rfl

theorem fit_paddedField_control :
    (fit 16 (paddedField fmt pin pl fill))[0] = charZero + fmt := getElem_fit ..

/-- The length character is the digit of PINLEN. -/
theorem toNat_fit_paddedField_length (h9 : pl.toNat ≤ 9) :
    (fit 16 (paddedField fmt pin pl fill))[1].toNat = 0x30 + pl.toNat := by
  have hd : (pl.setWidth 8).toNat = pl.toNat := by
    rw [BitVec.toNat_setWidth, Nat.mod_eq_of_lt (by omega)]
  calc (fit 16 (paddedField fmt pin pl fill))[1].toNat
      = (charZero + pl.setWidth 8).toNat := congrArg _ (getElem_fit ..)
    _ = 0x30 + pl.toNat := by rw [toNat_charZero_add (by omega), hd]

/-- A character after the first two, of the whole array: one of the rest, or 0 above the field. -/
theorem fit_paddedField_rest (h : i < 14) :
    (fit 16 (paddedField fmt pin pl fill))[2 + i] =
      (pin.toList.take pl.toNat ++ List.replicate fill charFill).getD i 0#8 := by
  rw [getElem_fit, Nat.add_comm]
  rfl

/-- The PIN is copied unchanged. -/
theorem fit_paddedField_pin (h9 : pl.toNat ≤ 9) (h : i < pl.toNat) :
    (fit 16 (paddedField fmt pin pl fill))[2 + i] = pin[i] := by
  rw [fit_paddedField_rest (by omega),
    List.getD_append _ _ _ _ (by rwa [length_take_pin h9])]
  simp [h, show i < 16 by omega]

theorem fit_paddedField_fill (h9 : pl.toNat ≤ 9) (h : i < 14) (hi : ¬ i < pl.toNat)
    (hf : i < pl.toNat + fill) : (fit 16 (paddedField fmt pin pl fill))[2 + i] = charFill := by
  rw [fit_paddedField_rest h, List.getD_append_right _ _ _ _ (by rw [length_take_pin h9]; omega),
    List.getD_replicate _ (by rw [length_take_pin h9]; omega)]

theorem fit_paddedField_above (h9 : pl.toNat ≤ 9) (h : i < 14) (hi : pl.toNat + fill ≤ i) :
    (fit 16 (paddedField fmt pin pl fill))[2 + i] = 0#8 := by
  rw [fit_paddedField_rest h, List.getD_eq_default]
  rwa [List.length_append, length_take_pin h9, List.length_replicate]

/-! ### The completion step of PADPIN (42_format_encoder R141) -/

theorem exec_padpin_of_ok {cs : List Byte}
    (h : padPin s.snapshot.format s.snapshot.pin s.snapshot.pinlen = .ok cs) :
    exec .padpin s = .next (s.putFielda cs).succeed :=
  congrArg _ (complete_ok h _ _)

theorem exec_padpin_of_error {e : CmdError}
    (h : padPin s.snapshot.format s.snapshot.pin s.snapshot.pinlen = .error e) :
    exec .padpin s = .next (s.failedWith .fielda e.code e.info) := by
  rw [← fail_cleared, ← clearFielda_eq]
  exact congrArg _ (complete_error h _ _)

/-! ### The shifted PAN field (42_format_encoder R142) -/

/-- "0000" and the 12 characters of PAN before its last one. -/
def shiftedField (pan : Vector Byte 24) (pl : Word) : List Byte :=
  List.replicate 4 charZero ++ (pan.toList.drop (pl.toNat - 13)).take 12

theorem shiftPan_of_format_illegal (h : fmt ≠ 0) : shiftPan fmt pan pl = .error (.isoFormat fmt) :=
  if_pos h

theorem shiftPan_of_length_illegal (h : ¬ (13 ≤ pl.toNat ∧ pl.toNat ≤ 24)) :
    shiftPan 0 pan pl = .error (.panSize pl) := by
  rw [shiftPan, if_neg (not_not.2 rfl), if_pos (by simp only [Config.panMin, Config.panMax]; omega)]

theorem shiftPan_of_length_legal (h13 : 13 ≤ pl.toNat) (h24 : pl.toNat ≤ 24) :
    shiftPan 0 pan pl = .ok (shiftedField pan pl) := by
  rw [shiftPan, if_neg (not_not.2 rfl), if_neg (by simp only [Config.panMin, Config.panMax]; omega)]
  rfl

theorem length_shiftedField (h24 : pl.toNat ≤ 24) : (shiftedField pan pl).length = 16 := by
  simp only [shiftedField, List.length_append, List.length_replicate, List.length_take,
    List.length_drop, Vector.length_toList]
  omega

theorem fit_shiftedField_zeros (h : i < 4) : (fit 16 (shiftedField pan pl))[i] = charZero := by
  rw [getElem_fit, shiftedField, List.getD_append _ _ _ _ h, List.getD_replicate _ h]

theorem fit_shiftedField_pan (h : i < 12) (h' : pl.toNat - 13 + i < 24) :
    (fit 16 (shiftedField pan pl))[4 + i] = pan[pl.toNat - 13 + i] := by
  rw [getElem_fit, shiftedField, List.getD_append_right _ _ _ _ (Nat.le_add_right 4 i),
    List.length_replicate, Nat.add_sub_cancel_left]
  simp [h, h']

/-! ### The completion step of SHIFTPAN (42_format_encoder R143) -/

theorem exec_shiftpan_of_ok {cs : List Byte}
    (h : shiftPan s.snapshot.format s.snapshot.pan s.snapshot.panlen = .ok cs) :
    exec .shiftpan s = .next (s.putFieldb cs).succeed :=
  congrArg _ (complete_ok h _ _)

theorem exec_shiftpan_of_error {e : CmdError}
    (h : shiftPan s.snapshot.format s.snapshot.pan s.snapshot.panlen = .error e) :
    exec .shiftpan s = .next (s.failedWith .fieldb e.code e.info) := by
  rw [← fail_cleared, ← clearFieldb_eq]
  exact congrArg _ (complete_error h _ _)

end

section

variable {field : FieldId} {c : Byte} {cs bs : List Byte}

/-! ### The nibble of a character (42_format_encoder R144) -/

theorem nib_of_digit (hl : 0x30 ≤ c.toNat) (hu : c.toNat ≤ 0x39) :
    nib c = some (BitVec.ofNat 4 (c.toNat - 0x30)) :=
  if_pos ⟨hl, hu⟩

theorem nib_of_upper (hl : 0x41 ≤ c.toNat) (hu : c.toNat ≤ 0x46) :
    nib c = some (BitVec.ofNat 4 (c.toNat - 0x41 + 10)) := by
  rw [nib, if_neg (by omega), if_pos ⟨hl, hu⟩]

theorem nib_of_lower (hl : 0x61 ≤ c.toNat) (hu : c.toNat ≤ 0x66) :
    nib c = some (BitVec.ofNat 4 (c.toNat - 0x61 + 10)) := by
  rw [nib, if_neg (by omega), if_neg (by omega), if_pos ⟨hl, hu⟩]

theorem nib_eq_none (h : isHexChar c = false) : nib c = none := by
  rw [← Option.isNone_iff_eq_none, ← Option.isSome_eq_false_iff, nib_isSome, h]

theorem map_toNat_some_ofNat {v : Nat} (h : v < 16) :
    (some (BitVec.ofNat 4 v)).map BitVec.toNat = some v :=
  congrArg some (Nat.mod_eq_of_lt h)

/-! ### The nibble packer (42_format_encoder R145) -/

theorem hiNibble_append (hi lo : BitVec 4) : hiNibble (hi ++ lo) = hi := by
  rw [hiNibble, BitVec.extractLsb'_append_eq_left]

theorem loNibble_append (hi lo : BitVec 4) : loNibble (hi ++ lo) = lo := by
  rw [loNibble, BitVec.extractLsb'_append_eq_right]

/-- The pair of characters byte `i` was packed from. -/
theorem pack_nibbles (h : pack field cs = .ok bs) :
    ∀ i, i < bs.length →
      nib (cs.getD (2 * i) 0) = some ((bs.getD i 0).extractLsb' 4 4) ∧
      nib (cs.getD (2 * i + 1) 0) = some ((bs.getD i 0).extractLsb' 0 4) := by
  fun_induction pack field cs generalizing bs with
  | case1 => cases h; simp
  | case2 => cases h
  | case3 a b rest hi lo hlo hhi bs' hbs ih =>
    cases h
    rintro (_ | i) hlt
    · exact ⟨hhi.trans (congrArg some (hiNibble_append hi lo).symm),
        hlo.trans (congrArg some (loNibble_append hi lo).symm)⟩
    · exact ih hbs i (Nat.lt_of_succ_lt_succ hlt)
  | case4 => cases h
  | case5 => cases h

/-- Hexadecimal digits in pairs pack: no branch of `pack` that fails can be taken. -/
theorem pack_of_hexPairs (heven : cs.length % 2 = 0) (hhex : ∀ c ∈ cs, isHexChar c = true) :
    ∃ bs, pack field cs = .ok bs := by
  fun_induction pack field cs with
  | case1 => exact ⟨[], rfl⟩
  | case2 => simp at heven
  | case3 a b rest hi lo _ _ bs => exact ⟨_, rfl⟩
  | case4 a b rest hi lo _ _ e he ih =>
    have hrest : rest.length % 2 = 0 := by simp only [List.length_cons] at heven; omega
    obtain ⟨bs, hbs⟩ := ih hrest fun c hc => hhex c (by simp [hc])
    rw [he] at hbs; cases hbs
  | case5 a b rest hnib =>
    obtain ⟨hi, hhi⟩ := Option.isSome_iff_exists.1 ((nib_isSome a).trans (hhex a (by simp)))
    obtain ⟨lo, hlo⟩ := Option.isSome_iff_exists.1 ((nib_isSome b).trans (hhex b (by simp)))
    exact (hnib hi lo hhi hlo).elim

/-- A field that packs is one of hexadecimal pairs, so any other fails, and `pack` has one error. -/
theorem pack_of_not_hexPairs (h : ¬ (cs.length % 2 = 0 ∧ ∀ c ∈ cs, isHexChar c = true)) :
    pack field cs = .error (.hexDecode field) := by
  cases hp : pack field cs with
  | ok bs => exact absurd ⟨by rw [pack_length hp, Nat.mul_mod_right], pack_isHexChar hp⟩ h
  | error e => rw [pack_error hp]

end

/-- Settles O37: the two checks in order; the field is filled for FORMAT 0 and not for 1 and 3. -/
theorem padpinResult : Obligations.PadpinResult := by
  refine ⟨rfl, fun s => ⟨fun hl => ?badLength, fun h1 h9 n0 n1 n3 => ?badFormat,
    fun h1 h9 hf => ?filled, fun h1 h9 hf => ?unfilled⟩⟩
  case badLength => exact exec_padpin_of_error (padPin_of_length_illegal hl)
  case badFormat =>
    apply exec_padpin_of_error (e := .isoFormat s.snapshot.format)
    rw [padPin_of_length_legal h1 h9, if_neg n0, if_neg (not_or.2 ⟨n1, n3⟩)]
  case filled =>
    have hp := (padPin_of_length_legal (pin := s.snapshot.pin) h1 h9).trans (if_pos hf)
    refine ⟨_, exec_padpin_of_ok hp, ?_, fit_paddedField_control, toNat_fit_paddedField_length h9,
      fun i h => ?_, succeededFrom_succeed (sameBut_putFielda _ _),
      sameBut_succeed (sameBut_putFielda _ _)⟩
    · rw [State.succeed_fieldaLen, State.putFielda_fieldaLen, length_paddedField h9,
        show 2 + s.snapshot.pinlen.toNat + (14 - s.snapshot.pinlen.toNat) = 16 by omega]
      rfl
    · split_ifs with hi
      · exact fit_paddedField_pin h9 hi
      · exact fit_paddedField_fill h9 h hi (by omega)
  case unfilled =>
    have n0 : s.snapshot.format ≠ 0 := by rcases hf with hf | hf <;> rw [hf] <;> decide
    have hd : s.snapshot.format.toNat ≤ 9 := by rcases hf with hf | hf <;> rw [hf] <;> decide
    have hp := (padPin_of_length_legal (pin := s.snapshot.pin) h1 h9).trans
      ((if_neg n0).trans (if_pos hf))
    refine ⟨_, exec_padpin_of_ok hp, ?_, ?_, toNat_fit_paddedField_length h9, fun i h => ?_,
      succeededFrom_succeed (sameBut_putFielda _ _),
      sameBut_succeed (sameBut_putFielda _ _)⟩
    · rw [State.succeed_fieldaLen, State.putFielda_fieldaLen, length_paddedField h9,
        BitVec.toNat_ofNat, Nat.mod_eq_of_lt (by omega), Nat.add_zero]
    · exact (congrArg _ fit_paddedField_control).trans (toNat_charZero_add hd)
    · split_ifs with hi
      · exact fit_paddedField_pin h9 hi
      · exact fit_paddedField_above h9 h (Nat.le_of_not_lt hi)

/-- Settles O38: the format is checked first; the field is "0000" and the window of PAN. -/
theorem shiftpanResult : Obligations.ShiftpanResult := by
  refine ⟨rfl, fun s => ⟨fun hf => ?badFormat, fun hf hl => ?badLength, fun hf h13 h24 => ?shifted⟩⟩
  case badFormat => exact exec_shiftpan_of_error (shiftPan_of_format_illegal hf)
  case badLength =>
    apply exec_shiftpan_of_error (e := .panSize s.snapshot.panlen)
    rw [hf, shiftPan_of_length_illegal hl]
  case shifted =>
    have hp : shiftPan s.snapshot.format s.snapshot.pan s.snapshot.panlen =
        .ok (shiftedField s.snapshot.pan s.snapshot.panlen) := by
      rw [hf, shiftPan_of_length_legal h13 h24]
    refine ⟨_, exec_shiftpan_of_ok hp, ?_, fun _ => fit_shiftedField_zeros,
      fun _ => fit_shiftedField_pan, succeededFrom_succeed (sameBut_putFieldb _ _),
      sameBut_succeed (sameBut_putFieldb _ _)⟩
    rw [State.succeed_fieldbLen, State.putFieldb_fieldbLen, length_shiftedField h24]
    rfl

/-- Settles O40: hexadecimal pairs pack nibble by nibble, and nothing else packs. -/
theorem packPairsNibbles : Obligations.PackPairsNibbles := by
  refine fun field cs => ⟨fun heven hhex => ?_, pack_of_not_hexPairs⟩
  obtain ⟨bs, hbs⟩ := pack_of_hexPairs (field := field) heven hhex
  have hlen := pack_length hbs
  exact ⟨bs, hbs, by omega, pack_nibbles hbs⟩

/-- Settles O39: one range of characters at a time. -/
theorem hexDigitValues : Obligations.HexDigitValues := by
  refine fun c => ⟨fun hl hu => ?digit, fun hl hu => ?upper, fun hl hu => ?lower, nib_eq_none⟩
  case digit => rw [nib_of_digit hl hu, map_toNat_some_ofNat (by omega)]
  case upper => rw [nib_of_upper hl hu, map_toNat_some_ofNat (by omega)]
  case lower => rw [nib_of_lower hl hu, map_toNat_some_ofNat (by omega)]

end Sys2Proof.Machine

/-! PROOFS of the masking family (43_mask): the outcomes of MASK (R161). -/

namespace Sys2Proof.Machine

section

variable {s : State} {src : Src} {a b c : List Byte} {e : CmdError}

/-! ### The XOR of two byte strings (43_mask R160) -/

theorem xorBuffers_of_length_ne (h : a.length ≠ b.length) :
    xorBuffers a b = .error (.lengthMismatch a.length b.length) :=
  if_pos h

theorem length_zipWith_xor (h : a.length = b.length) :
    (List.zipWith (· ^^^ ·) a b).length = a.length := by
  rw [List.length_zipWith, ← h, Nat.min_self]

/-- A byte of a register that holds the XOR: the XOR of the operands' bytes, or 0 above it. -/
theorem getElem_fit_zipWith_xor {n i : Nat} (hl : a.length = b.length) (h : i < n) :
    (fit n (List.zipWith (· ^^^ ·) a b))[i] =
      if i < a.length then a.getD i 0 ^^^ b.getD i 0 else 0 := by
  rw [getElem_fit]
  split_ifs with hi
  · simp [hi, hl ▸ hi]
  · exact List.getD_eq_default _ _ ((length_zipWith_xor hl).trans_le (Nat.le_of_not_lt hi))

/-! ### The two operands, and the first check that fails (43_mask R161) -/

theorem maskResult_of_operand_error (ha : s.maskOperand src = .error e) :
    maskResult s src = .error e := by
  rw [maskResult, ha]; rfl

theorem maskResult_of_fieldb_error (ha : s.maskOperand src = .ok a)
    (hb : pack .shiftedPan s.fieldbChars = .error e) : maskResult s src = .error e := by
  rw [maskResult, ha, hb]; rfl

theorem maskResult_of_operands (ha : s.maskOperand src = .ok a)
    (hb : pack .shiftedPan s.fieldbChars = .ok b) : maskResult s src = xorBuffers a b := by
  rw [maskResult, ha, hb]; rfl

/-- FIELDB holds at most 16 characters, so at most 8 bytes are packed from it. -/
theorem length_packed_fieldb_le (hb : pack .shiftedPan s.fieldbChars = .ok b) : b.length ≤ 8 := by
  have hpairs := pack_length hb
  have hchars : s.fieldbChars.length ≤ 16 := by
    rw [State.fieldbChars, List.length_take, Vector.length_toList]
    exact Nat.min_le_right _ _
  omega

/-! ### The completion step of MASK (43_mask R161) -/

theorem exec_mask_of_ok (h : maskResult s src = .ok c) :
    exec (.mask src) s = .next (s.putBlkout c).succeed :=
  congrArg _ (complete_ok h _ _)

theorem exec_mask_of_error (h : maskResult s src = .error e) :
    exec (.mask src) s = .next (s.failedWith .blkout e.code e.info) := by
  rw [← fail_cleared, ← clearBlkout_eq]
  exact congrArg _ (complete_error h _ _)

end

/-- Settles O42: the first check that fails gives the error; with none failing, BLKOUT takes the XOR
of two strings of one length, at most 8. (`maskResult` names the model's own function.) -/
theorem maskErrorsAndResult : Obligations.MaskResult := by
  refine ⟨rfl, rfl, fun s src => ⟨?badFielda, fun a hsrc => ?_⟩⟩
  case badFielda =>
    rintro rfl ha
    exact exec_mask_of_error (maskResult_of_operand_error (src := .input) ha)
  have ha : s.maskOperand src = .ok a := by
    cases src with
    | input => exact hsrc
    | blkout => rw [hsrc]; rfl
  refine ⟨fun hb => ?badFieldb, fun b hb => ?_⟩
  case badFieldb => exact exec_mask_of_error (maskResult_of_fieldb_error ha hb)
  have hm := maskResult_of_operands ha hb
  have hb8 := length_packed_fieldb_le hb
  refine ⟨fun hl => ?badLengths, fun hl => ?xored⟩
  case badLengths =>
    rw [← info_lengthMismatch _ (by omega)]
    exact exec_mask_of_error (hm.trans (xorBuffers_of_length_ne hl))
  case xored =>
    have hs := sameBut_putBlkout s (List.zipWith (· ^^^ ·) a b)
    refine ⟨_, exec_mask_of_ok (hm.trans (xorBuffers_of_length hl)), ?_,
      fun _ => getElem_fit_zipWith_xor hl, succeededFrom_succeed hs, sameBut_succeed hs⟩
    rw [State.succeed_outlen, State.putBlkout_outlen, length_zipWith_xor hl, BitVec.toNat_ofNat,
      Nat.mod_eq_of_lt (by omega)]

end Sys2Proof.Machine

/-! PROOFS of the BCD-decoder family (44_bcd_decoder): BCD2DEC (R171), the character of a nibble
(R172) and BCD2ASCII (R174). -/

namespace Sys2Proof.Machine

section

variable {s : State} {bs : List Byte} {off n : BitVec 4} {d : BitVec 5} {i : Nat}

/-! ### The words of the two commands (30_encoding R89) -/

theorem encode_bcd2dec : encode (.bcd2dec n) = 0x00000007#32 ||| n.setWidth 32 <<< 16 := by
  simp [encode, assemble]

theorem encode_bcd2ascii : encode (.bcd2ascii off d) =
    0x00000008#32 ||| off.setWidth 32 <<< 16 ||| d.setWidth 32 <<< 20 := by
  simp [encode, assemble]

/-- A word of BCD2DEC with N above 8 is illegal (30_encoding R83, R87). -/
theorem decode_encode_bcd2dec_of_count_illegal (h : 9#4 ≤ n) :
    ∃ r, decode (encode (.bcd2dec n)) = .error r := by
  rw [← illegalWord_iff]
  simp [IllegalWord, encode, h]

theorem bcd2dec_wellFormed_iff : (Instr.bcd2dec n).wellFormed = true ↔ n.toNat ≤ 8 := by
  simp [Instr.wellFormed, byteCountLegal]

/-! ### The value of a byte string (44_bcd_decoder R170) -/

/-- A byte as two decimal digits, each nibble weighted as its binary value. -/
def pairValue (b : Byte) : Nat := (hiNibble b).toNat * 10 + (loNibble b).toNat

/-- The positional value: byte 0 is the most significant pair. -/
theorem bcdToDecimal_eq_sum (bs : List Byte) :
    bcdToDecimal bs = ((List.range bs.length).map fun i =>
      pairValue (bs.getD i 0) * 100 ^ (bs.length - 1 - i)).sum := by
  induction bs with
  | nil => rfl
  | cons b bs ih =>
    rw [bcdToDecimal_cons, ih, List.length_cons, List.range_succ_eq_map, List.map_cons,
      List.sum_cons, List.map_map]
    refine congrArg _ (congrArg _ (List.map_congr_left fun i _ => ?_))
    simp [Nat.sub_add_eq, Nat.sub_right_comm]

/-- The first `n` bytes of a string at least that long. -/
theorem bcdToDecimal_take {k : Nat} (h : k ≤ bs.length) :
    bcdToDecimal (bs.take k) =
      ((List.range k).map fun i => pairValue (bs.getD i 0) * 100 ^ (k - 1 - i)).sum := by
  rw [bcdToDecimal_eq_sum, List.length_take_of_le h]
  refine congrArg _ (List.map_congr_left fun i hi => ?_)
  simp [List.mem_range.1 hi]

/-- 8 bytes fit the 64-bit ACC (10_state R40). -/
theorem bcdToDecimal_lt (h : bs.length ≤ 8) : bcdToDecimal bs < 2 ^ 64 := by
  have hle := bcdToDecimal_le bs
  have hpow : 100 ^ bs.length ≤ 100 ^ 8 := Nat.pow_le_pow_right (by decide) h
  omega

/-! ### The completion step of BCD2DEC (44_bcd_decoder R171) -/

theorem exec_bcd2dec_of_short (h : s.outlen.toNat < n.toNat) :
    exec (.bcd2dec n) s = .next (s.failedWith .acc 7 (n.setWidth 32)) := by
  have hr : bcd2decResult s n.toNat = .error (.insufficientData n.toNat) := if_pos h
  rw [← BitVec.ofNat_toNat]
  exact congrArg _ ((complete_error hr _ _).trans (fail_cleared .acc _))

theorem exec_bcd2dec_of_enough (h : n.toNat ≤ s.outlen.toNat) :
    exec (.bcd2dec n) s =
      .next (s.putAcc (bcdToDecimal (s.blkout.toList.take n.toNat))).succeed :=
  congrArg _ (complete_ok (if_neg (Nat.not_lt.2 h)) _ _)

/-! ### The character of a nibble (44_bcd_decoder R172) -/

theorem toNat_asc_digit {v : BitVec 4} (h : v.toNat ≤ 9) : (asc v).toNat = 0x30 + v.toNat := by
  rw [asc, if_pos h, BitVec.toNat_ofNat, Nat.mod_eq_of_lt (by omega)]

theorem toNat_asc_letter {v : BitVec 4} (h : 10 ≤ v.toNat) :
    (asc v).toNat = 0x41 + (v.toNat - 10) := by
  rw [asc, if_neg (by omega), BitVec.toNat_ofNat, Nat.mod_eq_of_lt (by omega)]

/-- `nib` (42_format_encoder R144) reads a character of PINOUT back. -/
theorem nib_asc (v : BitVec 4) : nib (asc v) = some v := by
  rcases Nat.lt_or_ge v.toNat 10 with h | h
  · have ha := toNat_asc_digit (Nat.le_of_lt_succ h)
    rw [nib_of_digit (by omega) (by omega), ha, Nat.add_sub_cancel_left, BitVec.ofNat_toNat,
      BitVec.setWidth_eq]
  · have ha := toNat_asc_letter h
    rw [nib_of_upper (by omega) (by omega), ha, Nat.add_sub_cancel_left, Nat.sub_add_cancel h,
      BitVec.ofNat_toNat, BitVec.setWidth_eq]

/-! ### The nibbles of BLKOUT from a byte on (44_bcd_decoder R173, R174) -/

theorem nibbleAt_eq (bs : List Byte) (i : Nat) :
    nibbleAt bs i = (bs.getD (i / 2) 0).extractLsb' (if i % 2 = 0 then 4 else 0) 4 := by
  unfold nibbleAt
  split_ifs <;> rfl

theorem length_blkoutBytes_drop (h8 : s.outlen.toNat ≤ 8) (k : Nat) :
    (s.blkoutBytes.drop k).length = s.outlen.toNat - k := by
  rw [State.blkoutBytes, List.length_drop, List.length_take_of_le (by simpa using h8)]

theorem getD_blkoutBytes_drop {k j : Nat} (h : k + j < s.outlen.toNat) :
    (s.blkoutBytes.drop k).getD j 0 = s.blkout.toList.getD (k + j) 0 := by
  simp [State.blkoutBytes, h]

/-- A byte of a register that holds `m` computed characters: one of them, or 0 above them. -/
theorem getElem_fit_map_range {k m : Nat} (f : Nat → Byte) (h : i < k) :
    (fit k ((List.range m).map f))[i] = if i < m then f i else 0 := by
  rw [getElem_fit]
  split_ifs with hi <;> simp [hi]

/-! ### The completion step of BCD2ASCII (44_bcd_decoder R174) -/

theorem exec_bcd2ascii_of_short (h8 : s.outlen.toNat ≤ 8)
    (h : s.outlen.toNat - off.toNat < (d.toNat + 1) / 2) :
    exec (.bcd2ascii off d) s = .next (s.failedWith .pinout 7 (d.setWidth 32)) := by
  have hr : bcdToAscii (s.blkoutBytes.drop off.toNat) d.toNat =
      .error (.insufficientData d.toNat) :=
    if_pos (by rwa [length_blkoutBytes_drop h8])
  rw [← BitVec.ofNat_toNat]
  refine congrArg _ ((complete_error hr _ _).trans ?_)
  rw [clearPinout_eq]
  exact fail_cleared .pinout _

theorem exec_bcd2ascii_of_enough (h8 : s.outlen.toNat ≤ 8)
    (h : (d.toNat + 1) / 2 ≤ s.outlen.toNat - off.toNat) :
    exec (.bcd2ascii off d) s = .next (s.putPinout ((List.range d.toNat).map fun i =>
      asc (nibbleAt (s.blkoutBytes.drop off.toNat) i))).succeed :=
  congrArg _ (complete_ok (if_neg (by rwa [length_blkoutBytes_drop h8, Nat.not_lt])) _ _)

end

/-- Settles O45: the check against OUTLEN, and the positional value of at most 8 bytes, which fits
ACC. (`bcd2decResult` names the model's own function.) -/
theorem bcd2decErrorAndResult : Obligations.Bcd2decResult := by
  refine ⟨fun _ => encode_bcd2dec, fun n hn => ?illegal, fun s n hw =>
    ⟨exec_bcd2dec_of_short, fun henough => ?result⟩⟩
  case illegal =>
    rw [← encode_bcd2dec]
    exact decode_encode_bcd2dec_of_count_illegal hn
  case result =>
    have h8 : n.toNat ≤ s.blkout.toList.length := by simpa using bcd2dec_wellFormed_iff.1 hw
    have hs := sameBut_putAcc s (bcdToDecimal (s.blkout.toList.take n.toNat))
    refine ⟨_, exec_bcd2dec_of_enough henough, ?_, succeededFrom_succeed hs, sameBut_succeed hs⟩
    rw [State.succeed_acc, State.putAcc_acc, BitVec.toNat_ofNat,
      Nat.mod_eq_of_lt (bcdToDecimal_lt (by simp)), bcdToDecimal_take h8]
    rfl

/-- Settles O47: the check against the bytes left of BLKOUT, and each character from its nibble. -/
theorem bcd2asciiResult : Obligations.Bcd2asciiResult := by
  refine ⟨fun _ _ => encode_bcd2ascii, fun s off d _ h8 =>
    ⟨exec_bcd2ascii_of_short h8, fun henough => ?result⟩⟩
  case result =>
    refine ⟨_, exec_bcd2ascii_of_enough h8 henough, ?_, fun i h => ?_,
      succeededFrom_succeed (sameBut_putPinout _ _), sameBut_succeed (sameBut_putPinout _ _)⟩
    · simp
    · rw [State.succeed_pinout, State.putPinout_pinout, getElem_fit_map_range _ h]
      refine ite_congr rfl (fun hi => ?_) (fun _ => rfl)
      rw [nibbleAt_eq, getD_blkoutBytes_drop (by omega)]

/-- Settles O46: the digits and the letters, and the read-back. -/
theorem nibbleCharacters : Obligations.NibbleCharacters :=
  fun v => ⟨toNat_asc_digit, toNat_asc_letter, isPinoutChar_asc v, nib_asc v⟩

end Sys2Proof.Machine

/-! PROOFS of the exceptions family (60_exceptions): the table of the error kinds (R211, R216) and the
error outcome of a command and of an illegal word (R213). -/

namespace Sys2Proof.Machine

section

variable {s t : State} {i : Instr} {src : Src} {a : List Byte} {e : CmdError}

/-! ### The table of the error kinds (60_exceptions R211) -/

/-- The table of R211: command `i` in state `s` can fail with the error, one constructor per error
kind and place it comes from. -/
inductive State.Raises (s : State) : Instr → CmdError → Prop
  | pinSize {i : Instr} (raiser : i = .padpin ∨ i = .encode) :
      s.Raises i (.pinSize s.snapshot.pinlen)
  | isoFormat {i : Instr} (raiser : i = .padpin ∨ i = .shiftpan ∨ i = .encode ∨ i = .decode) :
      s.Raises i (.isoFormat s.snapshot.format)
  | keySize {i : Instr} (raiser : i = .expand ∨ i = .encode ∨ i = .decode) :
      s.Raises i (.keySize s.snapshot.keylen)
  /-- FIELDA as MASK reads it. -/
  | hexFielda (bad : pack .paddedPin s.fieldaChars = .error (.hexDecode .paddedPin)) :
      s.Raises (.mask .input) (.hexDecode .paddedPin)
  /-- The padded PIN field ENCODE makes. -/
  | hexPaddedPin (pf : List Byte)
      (padded : padPin s.snapshot.format s.snapshot.pin s.snapshot.pinlen = .ok pf)
      (bad : pack .paddedPin pf = .error (.hexDecode .paddedPin)) :
      s.Raises .encode (.hexDecode .paddedPin)
  /-- FIELDB as MASK reads it. -/
  | hexFieldb (src : Src)
      (bad : pack .shiftedPan s.fieldbChars = .error (.hexDecode .shiftedPan)) :
      s.Raises (.mask src) (.hexDecode .shiftedPan)
  /-- The shifted PAN field ENCODE and DECODE make. -/
  | hexShiftedPan {i : Instr} (raiser : i = .encode ∨ i = .decode) (sf : List Byte)
      (shifted : shiftPan s.snapshot.format s.snapshot.pan s.snapshot.panlen = .ok sf)
      (bad : pack .shiftedPan sf = .error (.hexDecode .shiftedPan)) :
      s.Raises i (.hexDecode .shiftedPan)
  | panSize {i : Instr} (raiser : i = .shiftpan ∨ i = .encode ∨ i = .decode) :
      s.Raises i (.panSize s.snapshot.panlen)
  /-- The two operands of MASK. -/
  | maskLengths {src : Src} {a b : List Byte} (operand : s.maskOperand src = .ok a)
      (packed : pack .shiftedPan s.fieldbChars = .ok b) (differ : a.length ≠ b.length) :
      s.Raises (.mask src) (.lengthMismatch a.length b.length)
  /-- BLKOUT as a cipher command reads it. -/
  | noBlock {i : Instr} (raiser : i = .encrypt .blkout ∨ i = .decrypt .blkout)
      (differ : s.outlen ≠ 8#4) : s.Raises i (.lengthMismatch s.outlen.toNat 8)
  | bcd2decData (n : BitVec 4) : s.Raises (.bcd2dec n) (.insufficientData n.toNat)
  | bcd2asciiData (off : BitVec 4) (d : BitVec 5) :
      s.Raises (.bcd2ascii off d) (.insufficientData d.toNat)
  | keyNotLoaded {i : Instr} (raiser : ∃ src, i = .encrypt src ∨ i = .decrypt src) :
      s.Raises i .keyNotLoaded

/-! ### Each computation raises errors of its command's rows -/

theorem raises_of_padPin_error
    (h : padPin s.snapshot.format s.snapshot.pin s.snapshot.pinlen = .error e) :
    s.Raises .padpin e := by
  rcases padPin_error h with rfl | rfl
  · exact .pinSize (.inl rfl)
  · exact .isoFormat (.inl rfl)

theorem raises_of_shiftPan_error
    (h : shiftPan s.snapshot.format s.snapshot.pan s.snapshot.panlen = .error e) :
    s.Raises .shiftpan e := by
  rcases shiftPan_error h with rfl | rfl
  · exact .isoFormat (.inr (.inl rfl))
  · exact .panSize (.inl rfl)

theorem raises_of_maskResult_error (h : maskResult s src = .error e) : s.Raises (.mask src) e := by
  cases ha : s.maskOperand src with
  | error e' =>
    cases src with
    | blkout => cases ha
    | input =>
      obtain rfl := Except.error.inj ((maskResult_of_operand_error ha).symm.trans h)
      obtain rfl := pack_error ha
      exact .hexFielda ha
  | ok a =>
    cases hb : pack .shiftedPan s.fieldbChars with
    | error e' =>
      obtain rfl := Except.error.inj ((maskResult_of_fieldb_error ha hb).symm.trans h)
      obtain rfl := pack_error hb
      exact .hexFieldb src hb
    | ok b =>
      rw [maskResult_of_operands ha hb] at h
      obtain rfl := xorBuffers_error h
      exact .maskLengths ha hb fun hl => by rw [xorBuffers_of_length hl] at h; cases h

/-- Both cipher commands make the same checks. -/
theorem raises_of_cipherBlock_error (h : s.cipherBlock src = .error e) :
    s.Raises (.encrypt src) e ∧ s.Raises (.decrypt src) e := by
  rcases cipherBlock_error h with rfl | rfl
  · exact ⟨.keyNotLoaded ⟨src, .inl rfl⟩, .keyNotLoaded ⟨src, .inr rfl⟩⟩
  · have hk : s.status.keyvalid = true := by
      by_contra hk
      rw [cipherBlock_of_keyvalid_false (Bool.eq_false_iff.2 hk)] at h
      cases h
    have hchecks : ¬ (src = .blkout → s.outlen = 8) := fun ho => by
      rw [cipherBlock_of_checks hk ho] at h
      cases h
    obtain ⟨rfl, ho⟩ := Classical.not_imp.1 hchecks
    exact ⟨.noBlock (.inl rfl) ho, .noBlock (.inr rfl) ho⟩

theorem bcd2decResult_error {n : Nat} (h : bcd2decResult s n = .error e) :
    e = .insufficientData n := by
  unfold bcd2decResult at h
  split_ifs at h
  cases h; rfl

theorem raises_of_encodeResult_error (h : encodeResult s.snapshot = .error e) :
    s.Raises .encode e := by
  rcases encodeResult_error h with rfl | rfl | rfl | rfl | ⟨pf, hpf, hp⟩ | ⟨sf, hsf, hp⟩
  · exact .keySize (.inr (.inl rfl))
  · exact .pinSize (.inr rfl)
  · exact .isoFormat (.inr (.inr (.inl rfl)))
  · exact .panSize (.inr (.inl rfl))
  · obtain rfl := pack_error hp
    exact .hexPaddedPin pf hpf hp
  · obtain rfl := pack_error hp
    exact .hexShiftedPan (.inl rfl) sf hsf hp

theorem raises_of_decodeResult_error (h : decodeResult s.snapshot = .error e) :
    s.Raises .decode e := by
  rcases decodeResult_error h with rfl | rfl | rfl | ⟨sf, hsf, hp⟩
  · exact .keySize (.inr (.inr rfl))
  · exact .isoFormat (.inr (.inr (.inr rfl)))
  · exact .panSize (.inr (.inr rfl))
  · obtain rfl := pack_error hp
    exact .hexShiftedPan (.inr rfl) sf hsf hp

/-! ### What a completed command reports -/

/-- ERR, ERRCODE and ERRINFO of `t` are those of a success of `i` in `s`, or of an error the table
gives `i`. -/
def State.Reports (s : State) (i : Instr) (t : State) : Prop :=
  (t.status.err = false ∧ t.status.errcode = 0 ∧ t.errinfo = 0) ∨
  ∃ e, s.Raises i e ∧ t.status.err = true ∧ t.status.errcode = e.code ∧ t.errinfo = e.info

theorem complete_reports {α : Type} {r : Except CmdError α} (h : ∀ e, r = .error e → s.Raises i e)
    (store : State → α → State) (clear : State → State) :
    s.Reports i (s.complete r store clear) := by
  cases r with
  | ok a => exact .inl ⟨rfl, rfl, rfl⟩
  | error e => exact .inr ⟨e, h e rfl, rfl, rfl, rfl⟩

theorem exec_reports (h : exec i s = .next t) : s.Reports i t := by
  cases i <;> cases h <;> refine complete_reports (fun e he => ?_) _ _
  case expand =>
    obtain rfl := expandKey_error he
    exact .keySize (.inl rfl)
  case padpin => exact raises_of_padPin_error he
  case shiftpan => exact raises_of_shiftPan_error he
  case mask => exact raises_of_maskResult_error he
  case encrypt => exact (raises_of_cipherBlock_error he).1
  case decrypt => exact (raises_of_cipherBlock_error he).2
  case bcd2dec n =>
    obtain rfl := bcd2decResult_error he
    exact .bcd2decData n
  case bcd2ascii off d =>
    obtain rfl := bcdToAscii_error he
    exact .bcd2asciiData off d
  case encode => exact raises_of_encodeResult_error he
  case decode => exact raises_of_decodeResult_error he

/-! ### The strings of registers, folded -/

theorem take_fielda (s : State) : s.fielda.toList.take s.fieldaLen.toNat = s.fieldaChars := rfl

theorem take_fieldb (s : State) : s.fieldb.toList.take s.fieldbLen.toNat = s.fieldbChars := rfl

theorem take_blkout (s : State) : s.blkout.toList.take s.outlen.toNat = s.blkoutBytes := rfl

/-! ### ERRINFO as a number (60_exceptions R216) -/

theorem toNat_info_isoFormat (format : Byte) :
    (CmdError.isoFormat format).info.toNat = format.toNat :=
  BitVec.toNat_setWidth_of_le (by decide)

theorem toNat_info_insufficientData {count : Nat} (h : count < 2 ^ 32) :
    (CmdError.insufficientData count).info.toNat = count :=
  Nat.mod_eq_of_lt h

theorem toNat_info_lengthMismatch {a b : Nat} (ha : a < 2 ^ 16) (hb : b < 2 ^ 16) :
    (CmdError.lengthMismatch a b).info.toNat = a * 2 ^ 16 + b := by
  rw [info_lengthMismatch a hb, BitVec.toNat_ofNat, Nat.mod_eq_of_lt (by omega)]

theorem maskOperand_eq_ok_iff : s.maskOperand src = .ok a ↔
    (src = .input ∧ pack .paddedPin s.fieldaChars = .ok a) ∨
    (src = .blkout ∧ a = s.blkoutBytes) := by
  cases src <;> simp [State.maskOperand, eq_comm]

/-- The first operand of MASK is at most 8 bytes: FIELDA holds 16 characters, BLKOUT 8 bytes. -/
theorem length_maskOperand_le (h : s.maskOperand src = .ok a) : a.length ≤ 8 := by
  rcases maskOperand_eq_ok_iff.1 h with ⟨-, hpack⟩ | ⟨-, rfl⟩
  · have hpairs := pack_length hpack
    have hchars : s.fieldaChars.length ≤ 16 := by simp [State.fieldaChars]
    omega
  · simp [State.blkoutBytes]

end

/-- Settles O25: every command succeeds or fails with its destinations cleared, and an illegal word's
completion has none to clear. -/
theorem failureClearsDestinationsOnly : Obligations.FailureClearsDestinationsOnly := by
  refine ⟨fun i s t h herr => ?command, fun s t p r hp hd h => ?illegal⟩
  case command =>
    rcases exec_outcome i s with ⟨u, hu, -⟩ | ⟨e, he, -⟩
    · rw [hu] at h; cases h; cases herr
    · rw [he] at h; cases h
      exact ⟨e, rfl⟩
  case illegal =>
    rw [step_of_illegal hp hd] at h
    cases h
    exact ⟨.illegalCommand p.word, rfl⟩

/-- Settles O27: what a command reports is a success or a row of the table, and each row meets the one
clause of its code. -/
theorem errorCodesAndValues : Obligations.ErrorCodesAndValues := by
  refine ⟨fun i s t h => ?command, fun s p r hp hd => ⟨_, step_of_illegal hp hd, rfl, rfl, rfl⟩⟩
  case command =>
    rcases exec_reports h with ⟨herr, hcode, hinfo⟩ | ⟨e, hr, herr, hcode, hinfo⟩
    · simp [herr, hcode, hinfo]
    simp only [herr, hcode, hinfo, take_fielda, take_fieldb, take_blkout]
    cases hr with
    | pinSize raiser => simp [CmdError.code, CmdError.info, raiser]
    | isoFormat raiser => simp [CmdError.code, toNat_info_isoFormat, raiser]
    | keySize raiser => simp [CmdError.code, CmdError.info, raiser]
    | hexFielda bad => simp [CmdError.code, CmdError.info, FieldId.number, bad]
    | hexPaddedPin pf padded bad =>
      simp [CmdError.code, CmdError.info, FieldId.number, padded, bad]
    | hexFieldb src bad => simp [CmdError.code, CmdError.info, FieldId.number, bad]
    | hexShiftedPan raiser sf shifted bad =>
      simp [CmdError.code, CmdError.info, FieldId.number, raiser, shifted, bad]
    | panSize raiser => simp [CmdError.code, CmdError.info, raiser]
    | @maskLengths src a b operand packed differ =>
      have ha := length_maskOperand_le operand
      have hb := length_packed_fieldb_le packed
      have hval := toNat_info_lengthMismatch (a := a.length) (b := b.length) (by omega) (by omega)
      rcases maskOperand_eq_ok_iff.1 operand with ⟨rfl, hpack⟩ | ⟨rfl, rfl⟩
      · simp [CmdError.code, hval, hpack, packed, differ]
      · simp [CmdError.code, hval, packed, differ]
    | noBlock raiser differ =>
      have hval := toNat_info_lengthMismatch (a := s.outlen.toNat) (b := 8) (by omega) (by omega)
      simp [CmdError.code, hval, raiser, differ]
    | bcd2decData n =>
      simp [CmdError.code, toNat_info_insufficientData (by omega : n.toNat < 2 ^ 32)]
    | bcd2asciiData off d =>
      simp [CmdError.code, toNat_info_insufficientData (by omega : d.toNat < 2 ^ 32)]
    | keyNotLoaded raiser => simp [CmdError.code, CmdError.info, raiser]

end Sys2Proof.Machine

/-! PROOFS of the reset family (70_reset_and_hazards): the state a reset leaves (R240, R241). -/

namespace Sys2Proof.Machine

/-- Every register of the map reads 0 after reset (R240): the scalars are 0, each array is a vector of
zeros, and KEY and the reserved offsets read 0 in any state. -/
theorem Loc.read_reset (l : Loc) : l.read State.reset = 0 := by
  cases l with
  | pin k | pan k | blkin k | blkout k | fielda k | fieldb k | pinout k =>
    exact lanes_replicate_zero _ k
  | cmd | status | errinfo | format | keylen | pinlen | panlen | outlen | key k | accLo | accHi
  | fieldaLen | fieldbLen | pinoutLen | reserved => rfl

@[simp] theorem readWindow_reset (off : Nat) : State.reset.readWindow off = 0 :=
  (locate off).read_reset

@[simp] theorem readWindow_resetBlock (s : State) (off : Nat) : s.resetBlock.readWindow off = 0 := by
  rw [State.resetBlock, readWindow_host, readWindow_reset]

/-- Settles O19: the reset step puts `State.reset` in place of the block's state, whatever is in
flight, and keeps the host's lists only. -/
theorem resetClearsEverything : Obligations.ResetClearsEverything := by
  refine ⟨fun s rest ht ho => ?asserted, readWindow_reset, rfl, rfl, rfl⟩
  case asserted =>
    exact ⟨(s.passed rest).resetBlock, step_of_assertReset ht ho, readWindow_resetBlock _,
      rfl, rfl, rfl, rfl, rfl⟩

end Sys2Proof.Machine

/-! PROOFS of the other family, the register invariant: the decoder's round trip (30_encoding R86,
R89), and that reset meets `State.Inv` and every step keeps it (10_state R23-R47). -/

namespace Sys2Proof.Machine

/-- Settles O1: a word decodes to a command exactly when it is the word of the command. -/
theorem decodeIffEncode : Obligations.DecodeIffEncode :=
  fun _ _ => decode_eq_ok_iff

section

variable {s t : State} {bs cs : List Byte} {src : Src} {i : Instr} {e : CmdError}

/-! ### The bound of ACC (44_bcd_decoder R170) -/

theorem bcdToDecimal_le_of_length (h : bs.length ≤ 8) : bcdToDecimal bs ≤ 16666666666666665 := by
  have hle := bcdToDecimal_le bs
  have hpow : 100 ^ bs.length ≤ 100 ^ 8 := Nat.pow_le_pow_right (by decide) h
  omega

/-! ### The lengths of computed strings -/

theorem shiftPan_length {fmt : Byte} {pan : Vector Byte 24} {pl : Word}
    (h : shiftPan fmt pan pl = .ok cs) : cs.length = 16 := by
  obtain ⟨-, -, -, hl, -⟩ := shiftPan_ok h
  exact hl

theorem xorBuffers_length {a b : List Byte} (h : xorBuffers a b = .ok bs) :
    bs.length = a.length := by
  obtain ⟨-, -, hl⟩ := xorBuffers_ok h
  exact hl

/-! ### The destination registers, one lemma per write -/

theorem toNat_ofNat_length {k m : Nat} (h : bs.length ≤ k) (hk : k < 2 ^ m) :
    (BitVec.ofNat m bs.length).toNat = bs.length :=
  Nat.mod_eq_of_lt (by omega)

theorem State.Inv.putBlkout (h : s.Inv) (hl : bs.length = 0 ∨ bs.length = 8) :
    (s.putBlkout bs).Inv :=
  { h with
    outlen := by rcases hl with hl | hl <;> simp [hl]
    blkout_tail := tailClear_fit 8 bs _
      (toNat_ofNat_length (show bs.length ≤ 8 by omega) (by decide)).ge }

theorem State.Inv.putFielda (h : s.Inv)
    (hl : cs.length = 0 ∨ cs.length = 16 ∨ (3 ≤ cs.length ∧ cs.length ≤ 11)) :
    (s.putFielda cs).Inv := by
  have hn : (BitVec.ofNat 5 cs.length).toNat = cs.length :=
    toNat_ofNat_length (show cs.length ≤ 16 by omega) (by decide)
  refine { h with fieldaLen := ?_, fielda_tail := tailClear_fit 16 cs _ hn.ge }
  rcases hl with hl | hl | hl
  · exact .inl (by simp [hl])
  · exact .inr (.inl (by simp [hl]))
  · exact .inr (.inr (by rwa [State.putFielda_fieldaLen, hn]))

theorem State.Inv.putFieldb (h : s.Inv) (hl : cs.length = 0 ∨ cs.length = 16) :
    (s.putFieldb cs).Inv :=
  { h with
    fieldbLen := by rcases hl with hl | hl <;> simp [hl]
    fieldb_tail := tailClear_fit 16 cs _
      (toNat_ofNat_length (show cs.length ≤ 16 by omega) (by decide)).ge }

theorem State.Inv.putPinout (h : s.Inv) (hl : cs.length ≤ 16)
    (hc : ∀ c ∈ cs, isPinoutChar c = true) : (s.putPinout cs).Inv := by
  have hn : (BitVec.ofNat 5 cs.length).toNat = cs.length := toNat_ofNat_length hl (by decide)
  refine { h with
    pinoutLen := hn.trans_le hl, pinout_tail := tailClear_fit 16 cs _ hn.ge,
    pinout_chars := fun i hi hlt => ?_ }
  rw [State.putPinout_pinoutLen, hn] at hlt
  simp only [State.putPinout_pinout, getElem_fit, List.getD_eq_getElem cs _ hlt]
  exact hc _ (List.getElem_mem hlt)

theorem State.Inv.putAcc {v : Nat} (h : s.Inv) (hv : v ≤ 16666666666666665) : (s.putAcc v).Inv :=
  { h with acc_bound := (Nat.mod_le _ _).trans hv }

theorem State.Inv.putKx (h : s.Inv) (x : Vector Byte 24) : (s.putKx x).Inv :=
  { h with key_clear := nofun }

theorem State.Inv.clearKx (h : s.Inv) : s.clearKx.Inv :=
  { h with key_clear := fun _ => rfl }

/-! ### The two outcomes of a command, and every command -/

theorem State.Inv.succeed (h : s.Inv) : s.succeed.Inv :=
  { h with
    busy_latch := rfl, busy_clear := nofun, err_code := by simp,
    code_range := by simp, info_clear := fun _ => rfl }

theorem State.Inv.fail (h : s.Inv) (he : 1 ≤ e.code.toNat ∧ e.code.toNat ≤ 9) : (s.fail e).Inv := by
  have hne : e.code ≠ 0 := fun h0 => by simp [h0] at he
  exact { h with
    busy_latch := rfl, busy_clear := nofun, err_code := by simpa using hne,
    code_range := he.2, info_clear := nofun }

theorem State.Raises.code_bounds (h : s.Raises i e) : 1 ≤ e.code.toNat ∧ e.code.toNat ≤ 8 := by
  cases h <;> simp [CmdError.code]

/-- A command keeps the invariant if its two writes do and its errors are in the table. -/
theorem complete_inv {α : Type} {r : Except CmdError α} {store : State → α → State}
    {clear : State → State} (hs : ∀ a, r = .ok a → (store s a).Inv) (hc : (clear s).Inv)
    (he : ∀ e, r = .error e → s.Raises i e) : (s.complete r store clear).Inv := by
  cases r with
  | ok a => exact (hs a rfl).succeed
  | error e => exact hc.fail ((he e rfl).code_bounds.imp_right Nat.le_succ_of_le)

theorem State.Inv.fieldbChars_length (h : s.Inv) :
    s.fieldbChars.length = 0 ∨ s.fieldbChars.length = 16 := by
  rcases h.fieldbLen with hl | hl <;> simp [State.fieldbChars, hl]

/-- The operands of a MASK that passes its checks. -/
theorem maskResult_ok (hr : maskResult s src = .ok bs) :
    ∃ a b, s.maskOperand src = .ok a ∧ pack .shiftedPan s.fieldbChars = .ok b ∧
      xorBuffers a b = .ok bs := by
  cases ha : s.maskOperand src with
  | error e => rw [maskResult_of_operand_error ha] at hr; cases hr
  | ok a =>
    cases hb : pack .shiftedPan s.fieldbChars with
    | error e => rw [maskResult_of_fieldb_error ha hb] at hr; cases hr
    | ok b =>
      rw [maskResult_of_operands ha hb] at hr
      exact ⟨a, b, rfl, rfl, hr⟩

/-- MASK gives as many bytes as FIELDB packs to. -/
theorem maskResult_length (h : s.Inv) (hr : maskResult s src = .ok bs) :
    bs.length = 0 ∨ bs.length = 8 := by
  obtain ⟨a, b, -, hb, hxor⟩ := maskResult_ok hr
  obtain ⟨hab, -, hca⟩ := xorBuffers_ok hxor
  have hpairs := pack_length hb
  have hchars := h.fieldbChars_length
  omega

theorem bcd2decResult_le {n v : Nat} (hr : bcd2decResult s n = .ok v) : v ≤ 16666666666666665 := by
  unfold bcd2decResult at hr
  split_ifs at hr
  cases hr
  exact bcdToDecimal_le_of_length (by simp)

/-- At most 8 bytes give at most 16 characters, all of them characters of nibbles. -/
theorem State.Inv.putPinout_bcdToAscii {n : Nat} (h : s.Inv) (hl : bs.length ≤ 8)
    (hr : bcdToAscii bs n = .ok cs) : (s.putPinout cs).Inv := by
  obtain ⟨hn, rfl⟩ := bcdToAscii_ok hr
  refine h.putPinout (by simp; omega) fun c hc => ?_
  obtain ⟨i, -, rfl⟩ := List.mem_map.1 hc
  exact isPinoutChar_asc _

theorem encodeResult_length {x : Inputs} (hr : encodeResult x = .ok bs) : bs.length = 8 := by
  obtain ⟨_, _, _, _, _, _, -, -, -, -, -, -, -, rfl⟩ := encodeResult_ok hr
  exact length_bytesOfBlock _

theorem State.Inv.putPinout_decodeResult {x : Inputs} (h : s.Inv) (hr : decodeResult x = .ok cs) :
    (s.putPinout cs).Inv := by
  obtain ⟨_, _, _, c, -, -, -, -, hc, -, hcs⟩ := decodeResult_ok hr
  have hlen : c.length = 8 := xorBuffers_length hc
  exact h.putPinout_bcdToAscii (by simp [hlen]) hcs

theorem exec_inv (h : s.Inv) (hx : exec i s = .next t) : t.Inv := by
  have hb := h.putBlkout (bs := []) (.inl rfl)
  have hp := h.putPinout (cs := []) (by simp) (by simp)
  cases i <;> cases hx
  case expand =>
    exact complete_inv (fun x _ => h.putKx x) h.clearKx fun e he => by
      obtain rfl := expandKey_error he
      exact .keySize (.inl rfl)
  case padpin =>
    refine complete_inv (fun cs hcs => h.putFielda ?_) (h.putFielda (.inl rfl))
      fun e he => raises_of_padPin_error he
    have := padPin_length hcs
    omega
  case shiftpan =>
    refine complete_inv (fun cs hcs => h.putFieldb ?_) (h.putFieldb (.inl rfl))
      fun e he => raises_of_shiftPan_error he
    exact .inr (shiftPan_length hcs)
  case mask src =>
    exact complete_inv (fun bs hbs => h.putBlkout (maskResult_length h hbs)) hb
      fun e he => raises_of_maskResult_error he
  case encrypt src =>
    exact complete_inv (fun x _ => h.putBlkout (.inr rfl)) hb
      fun e he => (raises_of_cipherBlock_error he).1
  case decrypt src =>
    exact complete_inv (fun x _ => h.putBlkout (.inr rfl)) hb
      fun e he => (raises_of_cipherBlock_error he).2
  case bcd2dec n =>
    exact complete_inv (fun v hv => h.putAcc (bcd2decResult_le hv)) (h.putAcc (by decide))
      fun e he => by
        obtain rfl := bcd2decResult_error he
        exact .bcd2decData n
  case bcd2ascii off d =>
    exact complete_inv (fun cs hcs => h.putPinout_bcdToAscii (by simp [State.blkoutBytes]) hcs) hp
      fun e he => by
        obtain rfl := bcdToAscii_error he
        exact .bcd2asciiData off d
  case encode =>
    exact complete_inv (fun bs hbs => h.putBlkout (.inr (encodeResult_length hbs))) hb
      fun e he => raises_of_encodeResult_error he
  case decode =>
    exact complete_inv (fun cs hcs => h.putPinout_decodeResult hcs) hp
      fun e he => raises_of_decodeResult_error he

/-! ### The host's steps -/

theorem State.Inv.passed (h : s.Inv) (rest : List HostOp) : (s.passed rest).Inv :=
  { h with busy_latch := h.busy_latch.trans (Option.isSome_map ..).symm }

theorem State.Inv.hostLists (h : s.Inv) (ops : List HostOp) (reads : List Word) (draws : Nat) :
    State.Inv { s with hostOps := ops, reads := reads, draws := draws } :=
  { h with }

theorem State.Inv.withInputs (h : s.Inv) (x : Inputs) : State.Inv { s with inputs := x } :=
  { h with }

theorem State.Inv.overrun (h : s.Inv) : s.overrun.Inv :=
  { h with }

theorem State.Inv.issue (h : s.Inv) (w : Word) (wait : Nat) : (s.issue w wait).Inv :=
  { h with
    busy_latch := rfl, busy_clear := fun _ => ⟨rfl, rfl, rfl, rfl⟩, err_code := by simp,
    code_range := by simp, info_clear := fun _ => rfl }

theorem inv_reset : State.reset.Inv where
  busy_latch := rfl
  busy_clear := nofun
  err_code := by decide
  code_range := by decide
  info_clear := fun _ => rfl
  key_clear := fun _ => rfl
  outlen := .inl rfl
  fieldaLen := .inl rfl
  fieldbLen := .inl rfl
  pinoutLen := by decide
  blkout_tail := fun i h _ => Vector.getElem_replicate h
  fielda_tail := fun i h _ => Vector.getElem_replicate h
  fieldb_tail := fun i h _ => Vector.getElem_replicate h
  pinout_tail := fun i h _ => Vector.getElem_replicate h
  pinout_chars := fun i _ hi => absurd hi (Nat.not_lt_zero i)
  acc_bound := by decide

theorem hostStep_inv (h : s.Inv) (hh : s.hostStep = .next t) : t.Inv := by
  rcases hostStep_cases hh with ⟨-, rfl⟩ | ⟨_, -, -, rfl⟩ | ⟨_, -, -, rfl⟩ |
    ⟨_, _, _, -, -, -, rfl⟩ | ⟨_, w, rest, -, -, -, rfl⟩ | ⟨_, w, rest, -, -, -, rfl⟩ |
    ⟨_, off, v, rest, -, -, -, -, rfl⟩ | ⟨rest, -, rfl⟩
  · exact h
  · exact h
  · exact h.hostLists ..
  · exact h.hostLists ..
  · exact (h.hostLists rest s.reads s.draws).overrun
  · exact (h.issue w _).hostLists ..
  · exact (h.hostLists rest s.reads s.draws).withInputs _
  · exact inv_reset.hostLists ..

end

/-- Settles O57: every register is 0, and its claim with it. -/
theorem invariantAtReset : Obligations.InvariantAtReset :=
  inv_reset

/-- Settles O58: a completion keeps the invariant by the writes its command makes, a host step by its
kind. -/
theorem stepKeepsInvariant : Obligations.StepKeepsInvariant := by
  intro s t h hst
  rcases step_cases hst with ⟨p, i, -, -, hx⟩ | ⟨p, r, -, -, rfl⟩ | ⟨-, hh⟩
  · exact exec_inv h hx
  · exact h.fail (by simp [CmdError.code])
  · exact hostStep_inv (h.passed s.hostOps) hh

/-- Settles O44: the bound by the geometric series of the pairs, and its two corner values. -/
theorem bcdToDecimalBound : Obligations.BcdToDecimalBound :=
  ⟨fun _ => bcdToDecimal_le_of_length, by decide, rfl⟩

end Sys2Proof.Machine

/-! PROOFS of the other family, the register window: the register map and its access kinds (10_state
R21), STATUS as a number (R23-R28) and what cannot be read (60_exceptions R221). -/

namespace Sys2Proof.Machine

section

variable {s t : State} {j : Nat} {v : Word} {l l' : Loc} {x : Inputs}

/-! ### The access kinds of the register map (10_state R21) -/

/-- An RW register that stores all 32 bits of a write. -/
def Loc.readWrite : Loc → Bool
  | .keylen | .pinlen | .panlen | .pin _ | .pan _ | .blkin _ => true
  | _ => false

def Loc.isKey : Loc → Bool
  | .key _ => true
  | _ => false

def Loc.isReserved : Loc → Bool
  | .reserved => true
  | _ => false

/-- An RO register, or a reserved word. -/
def Loc.ignoresWrites : Loc → Bool
  | .status | .errinfo | .outlen | .blkout _ | .accLo | .accHi | .fielda _ | .fieldb _ | .fieldaLen
  | .fieldbLen | .pinoutLen | .pinout _ | .reserved => true
  | _ => false

/-- The offset of a register, and for an array of its word from index `k`. -/
def Loc.offset : Loc → Nat
  | .cmd => 0x000
  | .status => 0x004
  | .errinfo => 0x008
  | .format => 0x00C
  | .keylen => 0x010
  | .pinlen => 0x014
  | .panlen => 0x018
  | .outlen => 0x01C
  | .key k => 0x020 + k
  | .pin k => 0x040 + k
  | .pan k => 0x050 + k
  | .blkin k => 0x068 + k
  | .blkout k => 0x070 + k
  | .accLo => 0x078
  | .accHi => 0x07C
  | .fielda k => 0x080 + k
  | .fieldb k => 0x090 + k
  | .fieldaLen => 0x0A0
  | .fieldbLen => 0x0A4
  | .pinoutLen => 0x0A8
  | .pinout k => 0x0B0 + k
  | .reserved => 0x0AC

/-- The word of an RW array is inside the array. -/
def Loc.inArray : Loc → Bool
  | .pin k => k + 4 ≤ 16
  | .pan k => k + 4 ≤ 24
  | .blkin k => k + 4 ≤ 8
  | _ => true

theorem offset_locate (h : j < 64) :
    locate (4 * j) = .reserved ∨ (locate (4 * j)).offset = 4 * j := by
  revert j; decide

theorem inArray_locate (h : j < 64) : (locate (4 * j)).inArray = true := by
  revert j; decide

theorem readWrite_locate (h : j < 64) (hr : (4 ≤ j ∧ j < 7) ∨ (16 ≤ j ∧ j < 28)) :
    (locate (4 * j)).readWrite = true := by
  revert j; decide

theorem isKey_locate (h : j < 64) : (locate (4 * j)).isKey = decide (8 ≤ j ∧ j < 14) := by
  revert j; decide

theorem isReserved_locate (h : j < 64) (hr : (14 ≤ j ∧ j < 16) ∨ j = 43 ∨ 48 ≤ j) :
    (locate (4 * j)).isReserved = true := by
  revert j; decide

theorem ignoresWrites_locate (h : j < 64)
    (hr : j = 1 ∨ j = 2 ∨ j = 7 ∨ (14 ≤ j ∧ j < 16) ∨ 28 ≤ j) :
    (locate (4 * j)).ignoresWrites = true := by
  revert j; decide

/-! ### A read after a store -/

theorem Loc.read_store_readWrite (ha : l.readWrite = true) (hin : l.inArray = true) :
    l.read { s with inputs := l.store s.inputs v } = v := by
  cases l with
  | keylen | pinlen | panlen => rfl
  | pin k | pan k | blkin k => exact lanes_setLanes _ k v (of_decide_eq_true hin)
  | _ => cases ha

/-- FORMAT keeps the low 8 bits. -/
theorem Loc.read_store_format :
    Loc.format.read { s with inputs := Loc.format.store s.inputs v } = v &&& 0x000000FF#32 := by
  apply BitVec.eq_of_toNat_eq
  simp only [Loc.read, Loc.store, BitVec.toNat_setWidth, BitVec.toNat_and, BitVec.toNat_ofNat]
  rw [show 0xFF % 2 ^ 32 = 2 ^ 8 - 1 by decide, Nat.and_two_pow_sub_one_eq_mod]
  omega

theorem Loc.read_eq_zero (ha : l.isKey = true ∨ l.isReserved = true) : l.read s = 0 := by
  cases l with
  | key k | reserved => rfl
  | _ => rcases ha with ha | ha <;> cases ha

theorem Loc.store_eq_self (ha : l.ignoresWrites = true) : l.store x v = x := by
  cases l with
  | cmd | format | keylen | pinlen | panlen | key k | pin k | pan k | blkin k => cases ha
  | _ => rfl

theorem Loc.store_key (ha : l.isKey = false) : (l.store x v).key = x.key := by
  cases l with
  | key k => cases ha
  | _ => rfl

/-- A store to one word is not seen by a read of another. -/
theorem Loc.read_store_apart (h : l.offset + 4 ≤ l'.offset ∨ l'.offset + 4 ≤ l.offset) :
    l'.read { s with inputs := l.store s.inputs v } = l'.read s := by
  cases l' with
  | format | keylen | pinlen | panlen =>
    cases l <;> simp [Loc.read, Loc.store, Loc.offset] at h ⊢
  | pin k' =>
    cases l with
    | pin k => exact lanes_setLanes_of_disjoint _ k k' v (by simp only [Loc.offset] at h; omega)
    | _ => simp only [Loc.read, Loc.store]
  | pan k' =>
    cases l with
    | pan k => exact lanes_setLanes_of_disjoint _ k k' v (by simp only [Loc.offset] at h; omega)
    | _ => simp only [Loc.read, Loc.store]
  | blkin k' =>
    cases l with
    | blkin k => exact lanes_setLanes_of_disjoint _ k k' v (by simp only [Loc.offset] at h; omega)
    | _ => simp only [Loc.read, Loc.store]
  | _ => rfl

theorem readWindow_store_of_ne {j' : Nat} (h : j < 64) (h' : j' < 64) (hne : j' ≠ j) :
    State.readWindow { s with inputs := (locate (4 * j)).store s.inputs v } (4 * j') =
      s.readWindow (4 * j') := by
  unfold State.readWindow
  rcases offset_locate h with hr | ho
  · rw [hr]; rfl
  rcases offset_locate h' with hr | ho'
  · rw [hr]; rfl
  · exact Loc.read_store_apart (by omega)

/-! ### STATUS as a number (10_state R23-R28) -/

theorem toNat_append_add {m n : Nat} (a : BitVec m) (b : BitVec n) :
    (a ++ b).toNat = a.toNat * 2 ^ n + b.toNat := by
  rw [BitVec.toNat_append, ← Nat.shiftLeft_add_eq_or_of_lt b.isLt, Nat.shiftLeft_eq]

theorem toNat_toWord (st : Status) : st.toWord.toNat =
    st.busy.toNat + 2 * st.done.toNat + 4 * st.err.toNat + 8 * st.keyvalid.toNat +
      16 * st.ovr.toNat + 256 * st.errcode.toNat := by
  simp only [Status.toWord, toNat_append_add, BitVec.toNat_ofBool, BitVec.toNat_ofNat]
  omega

end

/-- Settles O6: the clauses by the access kind of the word, and the other words by their offsets. -/
theorem windowAccessKinds : Obligations.WindowAccessKinds := by
  intro s off v h4 h0 h100
  obtain ⟨j, rfl⟩ := Nat.dvd_of_mod_eq_zero h4
  have hj : j < 64 := by omega
  rw [writeWindow_of_ne (by omega)]
  refine ⟨fun h => ?readWrite, fun h => ?format, fun h => ?zero, fun h => ?ignored,
    fun off' h4' h100' hne => ?others, fun h => ?key⟩
  case readWrite =>
    exact Loc.read_store_readWrite (readWrite_locate hj (by omega)) (inArray_locate hj)
  case format =>
    obtain rfl : j = 3 := by omega
    exact Loc.read_store_format
  case zero =>
    have ha : (locate (4 * j)).isKey = true ∨ (locate (4 * j)).isReserved = true := by
      by_cases hk : 8 ≤ j ∧ j < 14
      · exact .inl ((isKey_locate hj).trans (decide_eq_true hk))
      · exact .inr (isReserved_locate hj (by omega))
    exact ⟨Loc.read_eq_zero ha, Loc.read_eq_zero ha⟩
  case ignored => rw [Loc.store_eq_self (ignoresWrites_locate hj (by omega))]
  case others =>
    obtain ⟨j', rfl⟩ := Nat.dvd_of_mod_eq_zero h4'
    exact readWindow_store_of_ne hj (by omega) (by omega)
  case key => exact Loc.store_key ((isKey_locate hj).trans (decide_eq_false (by omega)))

/-- Settles O7: each register is read as it stands, the narrow ones zero-extended. -/
theorem registerMapReads : Obligations.RegisterMapReads := by
  intro s
  have narrow : ∀ {m : Nat} (a : BitVec m), m ≤ 32 → (a.setWidth 32).toNat = a.toNat :=
    fun a h => BitVec.toNat_setWidth_of_le h
  refine ⟨rfl, toNat_toWord s.status, rfl, narrow _ (by decide), rfl, rfl, rfl,
    narrow _ (by decide), ?acc, narrow _ (by decide), narrow _ (by decide), narrow _ (by decide)⟩
  case acc =>
    have hlo : s.readWindow 0x078 = s.acc.extractLsb' 0 32 := rfl
    have hhi : s.readWindow 0x07C = s.acc.extractLsb' 32 32 := rfl
    simp only [hlo, hhi, BitVec.extractLsb'_toNat, Nat.shiftRight_eq_div_pow]
    omega

/-- Settles O8: no register of the map is KEY (its offsets read 0), KX or the latch. -/
theorem keyMaterialUnreadable : Obligations.KeyMaterialUnreadable := by
  intro s key kx l off
  unfold State.readWindow
  cases locate off <;> rfl

end Sys2Proof.Machine

/-! PROOFS of the other family, issue and completion: the host's statements one by one (20_memory
R62, R63, 30_encoding R88), the issue step (60_exceptions R212), what a host step keeps (10_state R48),
the outcomes of a command (R210, R214), and the runs to a completion (70_reset_and_hazards R246). -/

namespace Sys2Proof.Machine

section

variable {s t : State} {p : Pending} {at_ : BusAddr} {width off : Nat} {v : Word} {op : HostOp}
  {rest : List HostOp} {i : Instr} {x : Inputs}

/-! ### A host step, one lemma per statement of the host -/

/-- A read or a write is an access of its width. -/
theorem step_of_access (ht : s.hostTurn) (ho : s.hostOps = op :: rest)
    (hop : op = .rd at_ width ∨ ∃ v, op = .wr at_ width v) :
    ∃ act, step s = State.access at_ width act := by
  rw [step_of_hostTurn ht, ho]
  rcases hop with rfl | ⟨v, rfl⟩
  · exact ⟨_, rfl⟩
  · exact ⟨_, rfl⟩

theorem step_of_poll_idle (ht : s.hostTurn) (ho : s.hostOps = .poll :: rest)
    (hb : s.status.busy = false) :
    step s = .next { s.passed rest with reads := s.readWindow 0x004 :: s.reads } := by
  have hb' : (s.passed (.poll :: rest)).status.busy = false := hb
  rw [step_of_hostTurn ht, ho]
  simp only [State.hostStep, State.passed_hostOps, hb', Bool.false_eq_true, if_false]
  rfl

/-- A `poll` that reads BUSY = 1 stays pending. -/
theorem step_of_poll_busy (ht : s.hostTurn) (ho : s.hostOps = .poll :: rest)
    (hb : s.status.busy = true) : step s = .next (s.passed s.hostOps) := by
  have hb' : (s.passed (.poll :: rest)).status.busy = true := hb
  rw [step_of_hostTurn ht, ho]
  simp only [State.hostStep, State.passed_hostOps, hb', if_true]

theorem step_of_wr (ht : s.hostTurn) (ho : s.hostOps = .wr at_ 4 v :: rest)
    (hoff : at_.offset = some off) (h4 : off % 4 = 0) :
    step s = .next ((s.passed rest).writeWindow off v) := by
  rw [step_of_hostTurn ht, ho]
  simp only [State.hostStep, State.passed_hostOps, State.hostOp, access_offset hoff, h4]
  rfl

theorem step_of_latch_none (hl : s.latch = none) : step s = s.hostStep := by
  rw [step, hl]

/-! ### What a host step keeps (10_state R48, 60_exceptions R212) -/

theorem passed_latch (hl : s.latch = some p) (rest : List HostOp) :
    (s.passed rest).latch = some { p with wait := p.wait - 1 } := by
  rw [State.passed, hl]; rfl

/-- A host step but a reset counts down the wait of a command in flight, leaves the rest of it alone,
and writes no output register and no key. -/
theorem step_keeps_latch_and_results (ht : s.hostTurn) (h : step s = .next t)
    (hr : ∀ rest, s.hostOps ≠ .assertReset :: rest) :
    (∀ p, s.latch = some p → s.status.busy = true →
      t.latch = some { p with wait := p.wait - 1 } ∧ t.status.busy = true ∧ t.cmd = s.cmd ∧
      t.status.done = s.status.done ∧ t.status.err = s.status.err ∧
      t.status.errcode = s.status.errcode ∧ t.errinfo = s.errinfo) ∧
    t.blkout = s.blkout ∧ t.outlen = s.outlen ∧ t.acc = s.acc ∧
    t.fielda = s.fielda ∧ t.fieldaLen = s.fieldaLen ∧ t.fieldb = s.fieldb ∧
    t.fieldbLen = s.fieldbLen ∧ t.pinout = s.pinout ∧ t.pinoutLen = s.pinoutLen ∧
    t.kx = s.kx ∧ t.status.keyvalid = s.status.keyvalid := by
  rw [step_of_hostTurn ht] at h
  rcases hostStep_cases h with ⟨-, rfl⟩ | ⟨_, -, -, rfl⟩ | ⟨_, -, -, rfl⟩ |
    ⟨_, _, _, -, -, -, rfl⟩ | ⟨_, _, _, -, -, -, rfl⟩ | ⟨_, _, _, -, -, hidle, rfl⟩ |
    ⟨_, _, _, _, -, -, -, -, rfl⟩ | ⟨rest, hreset, -⟩
  case inr.inr.inr.inr.inr.inl =>
    -- an accepted CMD write: no command was in flight
    exact ⟨fun p _ hb => absurd (hb.symm.trans hidle) (by decide), rfl, rfl, rfl, rfl, rfl, rfl, rfl,
      rfl, rfl, rfl, rfl⟩
  case inr.inr.inr.inr.inr.inr.inr => exact absurd hreset (hr rest)
  all_goals
    exact ⟨fun p hl hb => ⟨passed_latch hl s.hostOps, hb, rfl, rfl, rfl, rfl, rfl⟩, rfl, rfl, rfl,
      rfl, rfl, rfl, rfl, rfl, rfl, rfl, rfl⟩

/-! ### A completion does not look at the live input registers (10_state R48) -/

theorem complete_withInputs {α : Type} {r r' : Except CmdError α} {store store' : State → α → State}
    {clear : State → State} (hr : r' = r)
    (hs : ∀ a, store' { s with inputs := x } a = { store s a with inputs := x })
    (hc : clear { s with inputs := x } = { clear s with inputs := x }) :
    State.complete { s with inputs := x } r' store' clear =
      { s.complete r store clear with inputs := x } := by
  subst hr
  cases r' with
  | ok a => simp only [State.complete, hs]; rfl
  | error e => simp only [State.complete, hc]; rfl

theorem snapshot_of_latch (hl : s.latch = some p) : s.snapshot = p.snap := by
  rw [State.snapshot, hl]

theorem exec_withInputs (hl : s.latch = some p) (h : exec i s = .next t) :
    exec i { s with inputs := x } = .next { t with inputs := x } := by
  have hsnap : State.snapshot { s with inputs := x } = s.snapshot :=
    (snapshot_of_latch (s := { s with inputs := x }) hl).trans (snapshot_of_latch hl).symm
  have hcipher : ∀ src, State.cipherBlock { s with inputs := x } src = s.cipherBlock src := by
    intro src
    simp only [State.cipherBlock, hsnap]
  cases i <;> cases h <;> refine congrArg _ (complete_withInputs ?_ (fun _ => rfl) rfl)
  case expand | padpin | shiftpan | encode | decode => rw [hsnap]
  case mask src => cases src <;> rfl
  case encrypt src | decrypt src => exact hcipher src
  case bcd2dec | bcd2ascii => rfl

/-! ### Runs to a completion (70_reset_and_hazards R246) -/

theorem run_one (h : step s = .next t) : Host.Core.run core 1 s = .next t :=
  run_succ (k := 0) h

theorem engineTurn_of_wait (hl : s.latch = some p) (hw : p.wait = 0) : s.engineTurn p := ⟨hl, hw⟩

theorem hostTurn_of_wait {n : Nat} (hl : s.latch = some p) (hw : p.wait = n + 1) : s.hostTurn := by
  intro q hq
  rw [hl] at hq
  cases hq
  omega

/-- A statement that keeps the bus rules and is no reset. -/
def HostOp.legalAccess (op : HostOp) : Prop := op.legal ∧ op ≠ .assertReset

/-- A host that keeps the bus rules makes its step, and performs at most its next statement. -/
theorem step_legal (ht : s.hostTurn) (hl : ∀ op ∈ s.hostOps, op.legal) :
    ∃ t, step s = .next t ∧ ∀ op ∈ t.hostOps, op ∈ s.hostOps := by
  rw [step_of_hostTurn ht]
  obtain ⟨t, hst, hops⟩ := hostStep_legal (s := s.passed s.hostOps) hl
  rw [State.passed_hostOps] at hops
  refine ⟨t, hst, fun op hop => ?_⟩
  rcases hops with hsame | ⟨head, htail⟩
  · exact hsame ▸ hop
  · exact htail ▸ List.mem_cons_of_mem head hop

theorem run_completes (n : Nat) (hw : p.wait = n) (hl : s.latch = some p)
    (hb : s.status.busy = true) (hh : ∀ op ∈ s.hostOps, op.legalAccess) :
    ∃ t : State, Host.Core.run core (n + 1) s = .next t ∧
      t.latch = none ∧ t.status.busy = false ∧ t.status.done = true ∧ t.cmd = s.cmd := by
  induction n generalizing s p with
  | zero =>
    obtain ⟨t, ht, hlatch, hbusy, hdone, hcmd, -⟩ := engineStep_next (s := s) (p := p)
    rw [← step_of_engineTurn (engineTurn_of_wait hl hw)] at ht
    exact ⟨t, run_one ht, hlatch, hbusy, hdone, hcmd⟩
  | succ n ih =>
    have hturn := hostTurn_of_wait hl hw
    obtain ⟨t, ht, hops⟩ := step_legal hturn fun op hop => (hh op hop).1
    have hr : ∀ rest, s.hostOps ≠ .assertReset :: rest := fun rest he =>
      (hh .assertReset (by simp [he])).2 rfl
    obtain ⟨htl, htb, htc, -⟩ := (step_keeps_latch_and_results hturn ht hr).1 p hl hb
    obtain ⟨u, hu, hlatch, hbusy, hdone, hcmd⟩ :=
      ih (by simp [hw]) htl htb fun op hop => hh op (hops op hop)
    exact ⟨u, (run_succ ht).trans hu, hlatch, hbusy, hdone, hcmd.trans htc⟩

/-- The reads of a `poll` with BUSY = 1 pass until the completion, which the `poll` then reads. -/
theorem run_poll (n : Nat) (hw : p.wait = n) (hl : s.latch = some p) (hb : s.status.busy = true)
    (ho : s.hostOps = .poll :: rest) :
    ∃ t : State, Host.Core.run core (n + 2) s = .next t ∧ t.hostOps = rest ∧
      t.reads = t.status.toWord :: s.reads ∧ t.status.busy = false ∧ t.status.done = true := by
  induction n generalizing s p with
  | zero =>
    obtain ⟨t, ht, hlatch, hbusy, hdone, -, hops, hreads⟩ := engineStep_next (s := s) (p := p)
    rw [← step_of_engineTurn (engineTurn_of_wait hl hw)] at ht
    have hpoll := step_of_poll_idle (hostTurn_of_latch_none hlatch) (hops.trans ho) hbusy
    exact ⟨_, (run_succ ht).trans (run_one hpoll), rfl, by rw [hreads]; rfl, hbusy, hdone⟩
  | succ n ih =>
    have hpoll := step_of_poll_busy (hostTurn_of_wait hl hw) ho hb
    obtain ⟨t, ht, hres⟩ := ih (s := s.passed s.hostOps) (p := { p with wait := p.wait - 1 })
      (by simp [hw]) (passed_latch hl _) hb ho
    exact ⟨t, (run_succ hpoll).trans ht, hres⟩

theorem getLsbD_toWord_zero (st : Status) : st.toWord.getLsbD 0 = st.busy := by
  rw [Status.toWord, BitVec.getLsbD_append]
  simp

end

/-! ### The obligations -/

/-- Settles O9: an access is decided by its offset, then by its width and alignment. -/
theorem busErrorExactlyWhenUnalignedOrNarrow :
    Obligations.BusErrorExactlyWhenUnalignedOrNarrow := by
  intro s at_ width rest op ht ho hop
  obtain ⟨act, hstep⟩ := step_of_access ht ho hop
  refine ⟨fun off hoff => ?inside, fun hout => hstep.trans (access_outside hout width act)⟩
  case inside =>
    rw [hstep, access_offset hoff]
    split_ifs with h <;> simp [h]

/-- Settles O10: one host step per clause. -/
theorem readOnlyRecordsItsValue : Obligations.ReadOnlyRecordsItsValue :=
  ⟨fun _ _ _ _ => step_of_rd, fun _ _ => step_of_poll_idle, fun _ _ => step_of_poll_busy⟩

/-- Settles O11: a write beside CMD stores into the input registers and does nothing else. -/
theorem writeTouchesInputsOnly : Obligations.WriteTouchesInputsOnly := by
  intro s at_ off v rest ht ho hoff h4 hne
  rw [step_of_wr ht ho hoff h4, writeWindow_of_ne (by omega), writeWindow_of_ne (by omega)]
  rfl

/-- Settles O12: the issue step, with the latency drawn for it. -/
theorem acceptedWriteIssues : Obligations.AcceptedWriteIssues := by
  intro s op w rest hl hb ho hw
  refine ⟨Config.latency s.draws, s.draws + 1, ?_⟩
  rw [step_of_writesCmd_idle (hostTurn_of_latch_none hl) hb ho hw, passed_of_latch_none hl]
  rfl

/-- Settles O15: the completion step decodes the latched word and runs it. -/
theorem stepRunsDecodedCommand : Obligations.StepRunsDecodedCommand := by
  intro s p i hp hd
  rw [step_of_engineTurn hp, engineStep, hd]

/-- Settles O16: every command reads the snapshot, and an illegal word reads nothing. -/
theorem runningCommandSeesOnlyItsSnapshot : Obligations.RunningCommandSeesOnlyItsSnapshot := by
  intro s p x t hp h
  have hp' : State.engineTurn { s with inputs := x } p := hp
  rw [step_of_engineTurn hp, engineStep] at h
  rw [step_of_engineTurn hp', engineStep]
  cases hd : decode p.word with
  | ok i =>
    rw [hd] at h
    exact exec_withInputs hp.1 h
  | error r =>
    rw [hd] at h
    cases h
    rfl

/-- Settles O17: the command in flight, and the results of the one before it. -/
theorem hostStepKeepsLatchAndResults : Obligations.HostStepKeepsLatchAndResults :=
  fun _ _ => step_keeps_latch_and_results

/-- Settles O20, by induction on the host steps left before the completion. -/
theorem commandCompletesWithinItsLatency : Obligations.CommandCompletesWithinItsLatency :=
  fun _ p hl hb hh => run_completes p.wait rfl hl hb hh

/-- Settles O21, by induction on the host steps left before the completion. -/
theorem pollReturnsTheCompletedStatus : Obligations.PollReturnsTheCompletedStatus := by
  intro s p rest hl hb ho
  obtain ⟨t, hrun, hops, hreads, hbusy, hdone⟩ := run_poll p.wait rfl hl hb ho
  exact ⟨t, hrun, hops, hreads, (getLsbD_toWord_zero _).trans hbusy, hdone⟩

/-- Settles O22: the host has the turn and nothing to do with it. -/
theorem idleBlockStaysAsItIs : Obligations.IdleBlockStaysAsItIs := by
  intro s hl ho
  rw [step_of_latch_none hl, State.hostStep, ho]

/-- Settles O23: a completion always happens, and a host step does for such a host. -/
theorem legalHostNeverStops : Obligations.LegalHostNeverStops := by
  intro s hl
  rcases turn_cases s with ht | ⟨p, hp⟩
  · obtain ⟨t, hst, hops⟩ := step_legal ht hl
    exact ⟨t, hst, fun op hop => hl op (hops op hop)⟩
  · obtain ⟨t, hst, -, -, -, -, hops, -⟩ := engineStep_next (s := s) (p := p)
    rw [← step_of_engineTurn hp] at hst
    exact ⟨t, hst, hops ▸ hl⟩

/-- Settles O24: a command completes, and reports a success or an error of the table. -/
theorem everyCommandCompletes : Obligations.EveryCommandCompletes := by
  intro i s
  obtain ⟨t, h⟩ := exec_next i s
  obtain ⟨-, -, -, -, -, -, hlatch, hbusy, hdone⟩ := exec_keeps h
  refine ⟨t, h, hbusy, hdone, hlatch, ?_⟩
  rcases exec_reports h with ⟨herr, hcode, -⟩ | ⟨e, hr, herr, hcode, -⟩
  · simp [herr, hcode]
  · obtain ⟨h1, h8⟩ := hr.code_bounds
    have hne : e.code ≠ 0 := fun h0 => by simp [h0] at h1
    rw [herr, hcode]
    exact ⟨iff_of_true rfl hne, h8⟩

/-- Settles O26: a success is the store into the destinations and the flags of a success. -/
theorem successChangesDestinationsOnly : Obligations.SuccessChangesDestinationsOnly := by
  intro i s t h herr
  rcases exec_outcome i s with ⟨u, hu, hs⟩ | ⟨e, he, -⟩
  · rw [hu] at h; cases h
    refine ⟨succeededFrom_succeed hs, sameBut_succeed hs, ?_⟩
    simp [toNat_toWord]
  · rw [he] at h; cases h; cases herr

/-- Settles O3: the decoder evaluated on each word. -/
theorem writtenOutWordsDecode : Obligations.WrittenOutWordsDecode := by
  unfold Obligations.WrittenOutWordsDecode
  decide

end Sys2Proof.Machine

/-! PROOFS of the other family, the cipher and the mask: short keys (40_key_expander R104), triple
DES undone (41_des_engine R132), parity bits (R130), and the XOR laws (43_mask R160, R161). -/

namespace Sys2Proof.Machine

section

variable {s t : State} {key long : Vector Byte 24} {k k' : Block} {a b c bs : List Byte} {i n : Nat}
  {src : Src}

/-! ### Short keys (40_key_expander R104) -/

theorem repeatedKey_eq_of_getElem
    (h : ∀ i, ∀ hi : i < 24, long[i] = key[i % n]'(Nat.lt_of_le_of_lt (Nat.mod_le _ _) hi)) :
    repeatedKey key n = long := by
  apply Vector.ext
  intro i hi
  rw [getElem_repeatedKey, h i hi]

/-! ### DES undone the other way, and triple DES (41_des_engine R129, R132) -/

theorem desD_desE (k x : Block) : desD k (desE k x) = x :=
  desWith_reverse_desWith (schedule k) x

theorem desE_desD (k x : Block) : desE k (desD k x) = x := by
  have h := desWith_reverse_desWith (schedule k).reverse x
  rwa [List.reverse_reverse] at h

theorem tdesD_tdesE (x : Vector Byte 24) (b : Block) : tdesD x (tdesE x b) = b := by
  simp only [tdesD, tdesE, desD_desE, desE_desD]

theorem tdesE_tdesD (x : Vector Byte 24) (b : Block) : tdesE x (tdesD x b) = b := by
  simp only [tdesD, tdesE, desD_desE, desE_desD]

/-! ### Parity bits (41_des_engine R130) -/

theorem getLsbD_eq_of_mask {n : Nat} {a b m : BitVec n} (h : (a ^^^ b) &&& m = 0)
    (hm : m.getLsbD i = true) : a.getLsbD i = b.getLsbD i := by
  have hi := congrArg (fun v => v.getLsbD i) h
  simpa [hm] using hi

/-- PC-1 leaves out the low bit of every key byte. -/
theorem tablePC1_skips_parity (h : i < 56) :
    (0xFEFEFEFEFEFEFEFE#64).getLsbD (64 - tablePC1.getD (55 - i) 0) = true := by
  revert i; decide

theorem permute_PC1_eq (h : (k ^^^ k') &&& 0xFEFEFEFEFEFEFEFE#64 = 0) :
    permute 56 tablePC1 k = permute 56 tablePC1 k' := by
  apply BitVec.eq_of_getLsbD_eq
  intro i hi
  rw [getLsbD_permute _ _ length_tablePC1 i hi, getLsbD_permute _ _ length_tablePC1 i hi]
  exact getLsbD_eq_of_mask h (tablePC1_skips_parity hi)

theorem schedule_eq_of_parity (h : (k ^^^ k') &&& 0xFEFEFEFEFEFEFEFE#64 = 0) :
    schedule k = schedule k' := by
  simp only [schedule, permute_PC1_eq h]

/-! ### A register read back as the string it took -/

theorem take_toList_fit {m : Nat} (hl : bs.length ≤ n) (hn : n < 2 ^ m) :
    (fit n bs).toList.take (BitVec.ofNat m bs.length).toNat = bs := by
  rw [toNat_ofNat_length hl hn, toList_fit, List.take_of_length_le hl, List.take_left']
  rfl

theorem blkoutBytes_putBlkout (hl : bs.length ≤ 8) : (s.putBlkout bs).blkoutBytes = bs :=
  take_toList_fit hl (by decide)

theorem fieldaChars_putFielda (hl : bs.length ≤ 16) : (s.putFielda bs).fieldaChars = bs :=
  take_toList_fit hl (by decide)

theorem fieldbChars_putFieldb (hl : bs.length ≤ 16) : (s.putFieldb bs).fieldbChars = bs :=
  take_toList_fit hl (by decide)

/-- A register that is 0 from index `n` up is its first `n` bytes. -/
theorem fit_take_of_tailClear {m : Nat} {v : Vector Byte m} (h : tailClear v n) :
    fit m (v.toList.take n) = v := by
  apply Vector.ext
  intro i hi
  rw [getElem_fit]
  by_cases hn : i < n
  · simp [hn, hi]
  · rw [List.getD_eq_default _ _ (by simp; omega), h i hi (by omega)]
    rfl

theorem blockOfBytes_toList_inj {v w : Vector Byte 8}
    (h : blockOfBytes v.toList = blockOfBytes w.toList) : v = w := by
  have hb := congrArg bytesOfBlock h
  rw [bytesOfBlock_blockOfBytes (by simp), bytesOfBlock_blockOfBytes (by simp)] at hb
  rw [← fit_toList v, ← fit_toList w, hb]

/-! ### The laws of the mask (43_mask R160) -/

theorem zipWith_xor_comm (a b : List Byte) :
    List.zipWith (· ^^^ ·) a b = List.zipWith (· ^^^ ·) b a :=
  List.zipWith_comm_of_comm BitVec.xor_comm

theorem zipWith_xor_cancel (h : a.length = b.length) :
    List.zipWith (· ^^^ ·) (List.zipWith (· ^^^ ·) a b) b = a := by
  apply List.ext_getElem
  · simp [h]
  · intro i h1 h2
    simp

theorem xorBuffers_cancel (h : a.length = b.length) :
    xorBuffers (List.zipWith (· ^^^ ·) a b) b = .ok a := by
  rw [xorBuffers_of_length ((length_zipWith_xor h).trans h), zipWith_xor_cancel h]

/-! ### MASK.OUT (43_mask R161) -/

/-- The two ways a MASK ends. -/
theorem exec_mask_cases (h : exec (.mask src) s = .next t) :
    (∃ c, maskResult s src = .ok c ∧ t = (s.putBlkout c).succeed) ∨
    (∃ e, maskResult s src = .error e ∧ t = s.clearBlkout.fail e) := by
  cases h
  exact complete_cases _ _ _

/-- A MASK.OUT that succeeds leaves in BLKOUT the XOR of its two operands. -/
theorem runCommand_maskOut_of_success (h : s.runCommand (.mask .blkout) = .next t)
    (he : t.status.err = false) :
    ∃ b, pack .shiftedPan s.fieldbChars = .ok b ∧ s.blkoutBytes.length = b.length ∧
      t.fieldbChars = s.fieldbChars ∧
      t.blkoutBytes = List.zipWith (· ^^^ ·) s.blkoutBytes b := by
  have h8 : s.blkoutBytes.length ≤ 8 := by simp [State.blkoutBytes]
  rcases exec_mask_cases h with ⟨c, hc, rfl⟩ | ⟨e, -, rfl⟩
  · obtain ⟨a, b, ha, hb, hxor⟩ := maskResult_ok hc
    obtain rfl := Except.ok.inj ha
    obtain ⟨hl, rfl, hlen⟩ := xorBuffers_ok hxor
    exact ⟨b, hb, hl, rfl, blkoutBytes_putBlkout (s := s) (hlen.trans_le h8)⟩
  · cases he

theorem maskOperand_issue (w : Word) (n : Nat) (src : Src) :
    (s.issue w n).maskOperand src = s.maskOperand src := by
  cases src <;> rfl

theorem runCommand_mask (ha : s.maskOperand src = .ok a)
    (hb : pack .shiftedPan s.fieldbChars = .ok b) (hc : xorBuffers a b = .ok c) :
    s.runCommand (.mask src) = .next ((s.issue (encode (.mask src)) 0).putBlkout c).succeed :=
  exec_mask_of_ok ((maskResult_of_operands ((maskOperand_issue _ _ src).trans ha) hb).trans hc)

end

/-! ### The obligations -/

/-- Settles O29: a short key is its own repetition, and the two outer steps of three equal sub-keys
cancel. -/
theorem shortKeysActAsTheirExpansion : Obligations.ShortKeysActAsTheirExpansion := by
  have expanded : ∀ {n : Word}, n = 8 ∨ n = 16 ∨ n = 24 → ∀ (key long : Vector Byte 24),
      repeatedKey key n.toNat = long → expandKey key n = expandKey long 24 := by
    intro n hn key long h
    rw [expandKey_eq_repeatedKey hn, h]
    rfl
  refine ⟨fun key long h => expanded (.inl rfl) key long (repeatedKey_eq_of_getElem h),
    fun key long h => expanded (.inr (.inl rfl)) key long (repeatedKey_eq_of_getElem h),
    fun x b h01 h12 => ?equal⟩
  case equal => rw [tdesE, ← h12, ← h01, desD_desE]

/-- Settles O31: the single-DES steps cancel in pairs. -/
theorem tdesDecryptUndoesEncrypt : Obligations.TdesDecryptUndoesEncrypt :=
  fun x b => ⟨tdesD_tdesE x b, tdesE_tdesD x b⟩

/-- Settles O32: PC-1 drops the low bit of each byte, so the schedules agree. -/
theorem parityBitsDoNotMatter : Obligations.ParityBitsDoNotMatter := by
  intro k k' h
  have hs := schedule_eq_of_parity h
  exact ⟨hs, fun x => ⟨by rw [desE, desE, hs], by rw [desD, desD, hs]⟩⟩

/-- Settles O33: the vectors evaluated. -/
theorem cipherVectors : Obligations.CipherVectors := by
  unfold Obligations.CipherVectors
  decide +kernel

/-- Settles O36: both commands pass their checks, and triple DES is undone. -/
theorem encryptOutThenDecryptOutRestores : Obligations.EncryptOutThenDecryptOutRestores := by
  intro s hk ho
  obtain ⟨hblk, hlen, -, hsame⟩ := ciphered_result (s := s.issue (encode (.encrypt .blkout)) 0)
    (src := .blkout) (tdesE s.kx) hk fun _ => ho
  generalize ht : (s.issue (encode (.encrypt .blkout)) 0).ciphered (tdesE s.kx) .blkout = t at *
  obtain ⟨hkx, hkv⟩ := hsame.key (by decide)
  obtain ⟨hblk', hlen', hsucc, -⟩ := ciphered_result (s := t.issue (encode (.decrypt .blkout)) 0)
    (src := .blkout) (tdesD t.kx) (hkv.trans hk) fun _ => hlen
  refine ⟨t, _, congrArg _ ht, rfl, blockOfBytes_toList_inj (hblk'.trans ?_), hlen', hsucc.err⟩
  calc tdesD t.kx (blockOfBytes t.blkout.toList)
      = tdesD s.kx (tdesE s.kx (blockOfBytes s.blkout.toList)) := by rw [hblk, hkx]; rfl
    _ = blockOfBytes s.blkout.toList := tdesD_tdesE ..

/-- Settles O41: the XOR byte by byte, commuted and cancelled. -/
theorem xorBuffersLaws : Obligations.XorBuffersLaws := by
  refine fun a b => ⟨xorBuffers_of_length_ne, fun hl => ⟨_, xorBuffers_of_length hl,
    length_zipWith_xor hl, fun i hi => ?byte, ?comm, xorBuffers_cancel hl⟩⟩
  case byte => simp [hi, hl ▸ hi]
  case comm => rw [xorBuffers_of_length hl.symm, zipWith_xor_comm]

/-- Settles O43: the second MASK.OUT cancels the first; BLKOUT is 0 above OUTLEN. -/
theorem maskOutTwiceRestores : Obligations.MaskOutTwiceRestores := by
  intro s t h ht herr
  obtain ⟨b, hb, hl, hfield, hout⟩ := runCommand_maskOut_of_success ht herr
  have h8 : s.outlen.toNat ≤ 8 := by rcases h.outlen with ho | ho <;> simp [ho]
  have hlen : s.blkoutBytes.length = s.outlen.toNat := length_blkoutBytes_drop h8 0
  have hagain : xorBuffers t.blkoutBytes b = .ok s.blkoutBytes := by
    rw [hout, xorBuffers_cancel hl]
  refine ⟨_, runCommand_mask (src := .blkout) rfl (hfield ▸ hb) hagain, rfl,
    fit_take_of_tailClear h.blkout_tail, ?outlen⟩
  case outlen =>
    rw [State.succeed_outlen, State.putBlkout_outlen, hlen, BitVec.ofNat_toNat, BitVec.setWidth_eq]

end Sys2Proof.Machine

/-! PROOFS of the other family, the pipelines: what ENCODE and DECODE compute, in which order they
check (45_pipelines R190-R193), and that they depend on their inputs only (R197). -/

namespace Sys2Proof.Machine

section

variable {s t : State} {x : Inputs} {key : Vector Byte 24} {pin : Vector Byte 16}
  {pan : Vector Byte 24} {pl : Word} {field : FieldId} {pf sf a b bs cs : List Byte}
  {e : CmdError} {i n : Nat}

/-! ### The two fields of FORMAT 0 and the nibble packer (42_format_encoder R140, R142, R145) -/

/-- A property of the characters of a window of a string, by index. -/
theorem forall_mem_window_iff {l : List Byte} {P : Byte → Prop} (h : i + n ≤ l.length) :
    (∀ c ∈ (l.drop i).take n, P c) ↔ ∀ j, i ≤ j → j < i + n → P (l.getD j 0) := by
  rw [List.forall_mem_iff_forall_getElem]
  constructor
  · intro hw j hij hjn
    have hlt : j - i < ((l.drop i).take n).length := by simp; omega
    have hj := hw (j - i) hlt
    simp only [List.getElem_take, List.getElem_drop, Nat.add_sub_cancel' hij] at hj
    rwa [List.getD_eq_getElem _ _ (by omega)]
  · intro hj k hk
    have hlt : k < n := by simp at hk; omega
    have hk' := hj (i + k) (by omega) (by omega)
    rw [List.getD_eq_getElem _ _ (by omega)] at hk'
    simpa using hk'

theorem isHexChar_of_decimal {ch : Byte} (h : isDecimalChar ch = true) : isHexChar ch = true := by
  simp only [isDecimalChar] at h
  simp [isHexChar, h]

theorem toNat_lengthChar (h9 : pl.toNat ≤ 9) :
    (charZero + pl.setWidth 8).toNat = 0x30 + pl.toNat := by
  have hd : (pl.setWidth 8).toNat = pl.toNat := by
    rw [BitVec.toNat_setWidth, Nat.mod_eq_of_lt (by omega)]
  rw [toNat_charZero_add (by omega), hd]

/-- The length character is a decimal digit. -/
theorem isHexChar_lengthChar (h9 : pl.toNat ≤ 9) : isHexChar (charZero + pl.setWidth 8) = true :=
  isHexChar_of_decimal (by simp [isDecimalChar, toNat_lengthChar h9]; omega)

/-- The padded PIN field of FORMAT 0. -/
def pinField (pin : Vector Byte 16) (pl : Word) : List Byte :=
  paddedField 0 pin pl (14 - pl.toNat)

theorem length_pinField (h9 : pl.toNat ≤ 9) : (pinField pin pl).length = 16 := by
  rw [pinField, length_paddedField h9]
  omega

/-- Only the characters of the PIN can fail to be hexadecimal digits. -/
theorem pinField_hex_iff (h9 : pl.toNat ≤ 9) :
    (∀ c ∈ pinField pin pl, isHexChar c = true) ↔
      ∀ i, i < pl.toNat → isHexChar (pin.toList.getD i 0) = true := by
  have hwindow := forall_mem_window_iff (P := fun c => isHexChar c = true) (i := 0) (n := pl.toNat)
    (l := pin.toList) (by simp; omega)
  have hfill : isHexChar charFill = true := by decide
  have hzero : isHexChar (charZero + 0) = true := by decide
  simp only [List.drop_zero, Nat.zero_le, Nat.zero_add, true_implies] at hwindow
  simp only [pinField, paddedField, List.forall_mem_cons, List.forall_mem_append, hzero,
    isHexChar_lengthChar h9, true_and, hwindow]
  exact and_iff_left fun c hc => List.eq_of_mem_replicate hc ▸ hfill

/-- Only the characters of the PAN can fail to be hexadecimal digits. -/
theorem shiftedField_hex_iff (h13 : 13 ≤ pl.toNat) (h24 : pl.toNat ≤ 24) :
    (∀ c ∈ shiftedField pan pl, isHexChar c = true) ↔
      ∀ i, pl.toNat - 13 ≤ i → i < pl.toNat - 1 → isHexChar (pan.toList.getD i 0) = true := by
  have hwindow := forall_mem_window_iff (P := fun c => isHexChar c = true) (i := pl.toNat - 13)
    (n := 12) (l := pan.toList) (by simp; omega)
  have hzero : isHexChar charZero = true := by decide
  rw [show pl.toNat - 13 + 12 = pl.toNat - 1 by omega] at hwindow
  simp only [shiftedField, List.forall_mem_append, hwindow]
  exact and_iff_right fun c hc => List.eq_of_mem_replicate hc ▸ hzero

theorem pack_of_hex (hl : cs.length = 16) (h : ∀ c ∈ cs, isHexChar c = true) :
    ∃ bs, pack field cs = .ok bs :=
  pack_of_hexPairs (by rw [hl]) h

theorem pack_of_not_hex (h : ¬ ∀ c ∈ cs, isHexChar c = true) :
    pack field cs = .error (.hexDecode field) :=
  pack_of_not_hexPairs fun hp => h hp.2

theorem padPin_of_format_zero (hf : x.format = 0) (h1 : 1 ≤ x.pinlen.toNat)
    (h9 : x.pinlen.toNat ≤ 9) :
    padPin x.format x.pin x.pinlen = .ok (pinField x.pin x.pinlen) :=
  (padPin_of_length_legal h1 h9).trans (if_pos hf)

theorem shiftPan_of_format_zero (hf : x.format = 0) (h13 : 13 ≤ x.panlen.toNat)
    (h24 : x.panlen.toNat ≤ 24) :
    shiftPan x.format x.pan x.panlen = .ok (shiftedField x.pan x.panlen) := by
  rw [hf, shiftPan_of_length_legal h13 h24]

/-! ### ENCODE, check by check (45_pipelines R190, R191) -/

/-- What ENCODE does with the two fields. -/
def encryptFields (key : Vector Byte 24) (pf sf : List Byte) : Except CmdError (List Byte) := do
  let a ← pack .paddedPin pf
  let b ← pack .shiftedPan sf
  let c ← xorBuffers a b
  return bytesOfBlock (tdesE key (blockOfBytes c))

theorem encodeResult_of_key_error (hk : expandKey x.key x.keylen = .error e) :
    encodeResult x = .error e := by
  rw [encodeResult, hk]; rfl

theorem encodeResult_of_padPin_error (hk : expandKey x.key x.keylen = .ok key)
    (hp : padPin x.format x.pin x.pinlen = .error e) : encodeResult x = .error e := by
  rw [encodeResult, hk, hp]; rfl

/-- FORMAT 3 passes ENCODE's own check and fails at the shifted PAN. -/
theorem encodeResult_of_format_ne (hk : expandKey x.key x.keylen = .ok key)
    (h1 : 1 ≤ x.pinlen.toNat) (h9 : x.pinlen.toNat ≤ 9) (hf : x.format ≠ 0) :
    encodeResult x = .error (.isoFormat x.format) := by
  have hs := shiftPan_of_format_illegal (pan := x.pan) (pl := x.panlen) hf
  have hp := (padPin_of_length_legal (fmt := x.format) (pin := x.pin) h1 h9).trans (if_neg hf)
  by_cases h13 : x.format = 1 ∨ x.format = 3
  · rw [if_pos h13] at hp
    rw [encodeResult, hk, hp, hs]
    rcases h13 with h | h <;> rw [h] <;> rfl
  · rw [if_neg h13] at hp
    exact encodeResult_of_padPin_error hk hp

theorem raiseIf_of_format_zero (hf : x.format = 0) (m : Byte) (e : CmdError) :
    raiseIf (x.format != 0 && x.format != m) e = .ok () := by
  rw [hf]; rfl

theorem encodeResult_of_shiftPan_error (hk : expandKey x.key x.keylen = .ok key)
    (hp : padPin x.format x.pin x.pinlen = .ok pf) (hf : x.format = 0)
    (hs : shiftPan x.format x.pan x.panlen = .error e) : encodeResult x = .error e := by
  rw [encodeResult, hk, hp, raiseIf_of_format_zero hf, hs]; rfl

theorem encodeResult_of_fields (hk : expandKey x.key x.keylen = .ok key)
    (hp : padPin x.format x.pin x.pinlen = .ok pf) (hf : x.format = 0)
    (hs : shiftPan x.format x.pan x.panlen = .ok sf) :
    encodeResult x = encryptFields key pf sf := by
  rw [encodeResult, hk, hp, raiseIf_of_format_zero hf, hs]; rfl

theorem encryptFields_of_pin_error (ha : pack .paddedPin pf = .error e) :
    encryptFields key pf sf = .error e := by
  rw [encryptFields, ha]; rfl

theorem encryptFields_of_pan_error (ha : pack .paddedPin pf = .ok a)
    (hb : pack .shiftedPan sf = .error e) : encryptFields key pf sf = .error e := by
  rw [encryptFields, ha, hb]; rfl

theorem encryptFields_of_ok (ha : pack .paddedPin pf = .ok a) (hb : pack .shiftedPan sf = .ok b)
    (hl : a.length = 8) (hl' : b.length = 8) :
    encryptFields key pf sf =
      .ok (bytesOfBlock (tdesE key (blockOfBytes a ^^^ blockOfBytes b))) := by
  rw [encryptFields, ha, hb, ← blockOfBytes_zipWith_xor hl hl']
  simp only [bind, Except.bind, xorBuffers_of_length (hl.trans hl'.symm)]
  rfl

theorem length_of_pack_sixteen (hl : cs.length = 16) (hp : pack field cs = .ok bs) :
    bs.length = 8 := by
  have := pack_length hp
  omega

theorem exec_encode_of_ok (h : encodeResult s.snapshot = .ok bs) :
    exec .encode s = .next (s.putBlkout bs).succeed :=
  congrArg _ (complete_ok h _ _)

theorem exec_encode_of_error (h : encodeResult s.snapshot = .error e) :
    exec .encode s = .next (s.failedWith .blkout e.code e.info) := by
  rw [← fail_cleared, ← clearBlkout_eq]
  exact congrArg _ (complete_error h _ _)

/-- The inputs for which ENCODE's checks all pass. -/
structure Inputs.Encodable (x : Inputs) : Prop where
  keylen : x.keylen = 8 ∨ x.keylen = 16 ∨ x.keylen = 24
  format : x.format = 0
  pin_ge : 1 ≤ x.pinlen.toNat
  pin_le : x.pinlen.toNat ≤ 9
  pan_ge : 13 ≤ x.panlen.toNat
  pan_le : x.panlen.toNat ≤ 24
  pin_hex : ∀ i, i < x.pinlen.toNat → isHexChar (x.pin.toList.getD i 0) = true
  pan_hex : ∀ i, x.panlen.toNat - 13 ≤ i → i < x.panlen.toNat - 1 →
    isHexChar (x.pan.toList.getD i 0) = true

/-- The values ENCODE goes through when every check passes. -/
theorem Inputs.Encodable.result (h : x.Encodable) :
    ∃ key a b, expandKey x.key x.keylen = .ok key ∧
      padPin x.format x.pin x.pinlen = .ok (pinField x.pin x.pinlen) ∧
      shiftPan x.format x.pan x.panlen = .ok (shiftedField x.pan x.panlen) ∧
      pack .paddedPin (pinField x.pin x.pinlen) = .ok a ∧
      pack .shiftedPan (shiftedField x.pan x.panlen) = .ok b ∧ a.length = 8 ∧ b.length = 8 ∧
      encodeResult x = .ok (bytesOfBlock (tdesE key (blockOfBytes a ^^^ blockOfBytes b))) := by
  obtain ⟨key, hk⟩ := expandKey_of_legal (key := x.key) h.keylen
  have hp := padPin_of_format_zero h.format h.pin_ge h.pin_le
  have hs := shiftPan_of_format_zero h.format h.pan_ge h.pan_le
  have hpl := length_pinField (pin := x.pin) h.pin_le
  have hsl := length_shiftedField (pan := x.pan) h.pan_le
  obtain ⟨a, ha⟩ := pack_of_hex (field := .paddedPin) hpl ((pinField_hex_iff h.pin_le).2 h.pin_hex)
  obtain ⟨b, hb⟩ := pack_of_hex (field := .shiftedPan) hsl
    ((shiftedField_hex_iff h.pan_ge h.pan_le).2 h.pan_hex)
  have hal := length_of_pack_sixteen hpl ha
  have hbl := length_of_pack_sixteen hsl hb
  exact ⟨key, a, b, hk, hp, hs, ha, hb, hal, hbl,
    (encodeResult_of_fields hk hp h.format hs).trans (encryptFields_of_ok ha hb hal hbl)⟩

/-! ### DECODE, check by check (45_pipelines R192, R193) -/

/-- The block DECODE reads the length and the digits from. -/
def clearBlock (key : Vector Byte 24) (blkin : Vector Byte 8) (b : List Byte) : List Byte :=
  bytesOfBlock (tdesD key (blockOfBytes blkin.toList) ^^^ blockOfBytes b)

theorem bytesOfBlock_xor (y : Block) (hb : b.length = 8) :
    bytesOfBlock (y ^^^ blockOfBytes b) = List.zipWith (· ^^^ ·) (bytesOfBlock y) b := by
  rw [← blockOfBytes_bytesOfBlock y, ← blockOfBytes_zipWith_xor (length_bytesOfBlock y) hb,
    bytesOfBlock_blockOfBytes (by simp [hb]), blockOfBytes_bytesOfBlock]

theorem bcdToDecimal_take_one (hl : 1 ≤ bs.length) :
    bcdToDecimal (bs.take 1) = pairValue (bs.getD 0 0) := by
  rw [bcdToDecimal_take hl]
  simp

theorem decodeResult_of_key_error (hk : expandKey x.key x.keylen = .error e) :
    decodeResult x = .error e := by
  rw [decodeResult, hk]; rfl

/-- FORMAT 1 passes DECODE's own check and fails at the shifted PAN. -/
theorem decodeResult_of_format_ne (hk : expandKey x.key x.keylen = .ok key) (hf : x.format ≠ 0) :
    decodeResult x = .error (.isoFormat x.format) := by
  have hs := shiftPan_of_format_illegal (pan := x.pan) (pl := x.panlen) hf
  rw [decodeResult, hk, hs]
  by_cases h1 : x.format = 1
  · rw [h1]; rfl
  · have hr : raiseIf (x.format != 0 && x.format != 1) (.isoFormat x.format) =
        .error (.isoFormat x.format) :=
      if_pos (by simp only [Bool.and_eq_true, bne_iff_ne]; exact ⟨hf, h1⟩)
    rw [hr]; rfl

theorem decodeResult_of_shiftPan_error (hk : expandKey x.key x.keylen = .ok key) (hf : x.format = 0)
    (hs : shiftPan x.format x.pan x.panlen = .error e) : decodeResult x = .error e := by
  rw [decodeResult, hk, raiseIf_of_format_zero hf, hs]; rfl

theorem decodeResult_of_pack_error (hk : expandKey x.key x.keylen = .ok key) (hf : x.format = 0)
    (hs : shiftPan x.format x.pan x.panlen = .ok sf) (hb : pack .shiftedPan sf = .error e) :
    decodeResult x = .error e := by
  rw [decodeResult, hk, raiseIf_of_format_zero hf, hs]
  simp only [bind, Except.bind, hb]

/-- With the clear block known, what is left is the check of its length. -/
theorem decodeResult_of_fields (hk : expandKey x.key x.keylen = .ok key) (hf : x.format = 0)
    (hs : shiftPan x.format x.pan x.panlen = .ok sf) (hb : pack .shiftedPan sf = .ok b) :
    decodeResult x =
      if 10 < pairValue ((clearBlock key x.blkin b).getD 0 0) then .error (.isoFormat 0)
      else bcdToAscii ((clearBlock key x.blkin b).drop 1)
        (pairValue ((clearBlock key x.blkin b).getD 0 0)) := by
  have hbl : b.length = 8 := length_of_pack_sixteen (shiftPan_length hs) hb
  have hx : xorBuffers (bytesOfBlock (tdesD key (blockOfBytes x.blkin.toList))) b =
      .ok (clearBlock key x.blkin b) := by
    rw [clearBlock, bytesOfBlock_xor _ hbl]
    exact xorBuffers_of_length hbl.symm
  have hone : bcdToDecimal ((clearBlock key x.blkin b).take 1) = _ :=
    bcdToDecimal_take_one (by simp [clearBlock])
  rw [decodeResult, hk, raiseIf_of_format_zero hf, hs]
  simp only [bind, Except.bind, hb, hx, hone, hf, raiseIf, Config.decodeLenLimit]
  generalize pairValue ((clearBlock key x.blkin b).getD 0 0) = len
  by_cases hlt : 10 < len
  · simp [hlt]
  · simp [hlt]

theorem decodeResult_of_length (hk : expandKey x.key x.keylen = .ok key) (hf : x.format = 0)
    (hs : shiftPan x.format x.pan x.panlen = .ok sf) (hb : pack .shiftedPan sf = .ok b)
    (hl : pairValue ((clearBlock key x.blkin b).getD 0 0) ≤ 10) :
    decodeResult x = .ok ((List.range (pairValue ((clearBlock key x.blkin b).getD 0 0))).map
      fun i => asc (nibbleAt ((clearBlock key x.blkin b).drop 1) i)) := by
  rw [decodeResult_of_fields hk hf hs hb, if_neg (by omega), bcdToAscii, if_neg]
  simp only [clearBlock, List.length_drop, length_bytesOfBlock] at hl ⊢
  omega

theorem exec_decode_of_ok (h : decodeResult s.snapshot = .ok cs) :
    exec .decode s = .next (s.putPinout cs).succeed :=
  congrArg _ (complete_ok h _ _)

theorem exec_decode_of_error (h : decodeResult s.snapshot = .error e) :
    exec .decode s = .next (s.failedWith .pinout e.code e.info) := by
  rw [← fail_cleared, ← clearPinout_eq]
  exact congrArg _ (complete_error h _ _)

theorem nibbleAt_drop (bs : List Byte) (k i : Nat) :
    nibbleAt (bs.drop k) i = nibbleAt bs (2 * k + i) := by
  rw [nibbleAt_eq, nibbleAt_eq, List.getD_eq_getElem?_getD, List.getElem?_drop,
    ← List.getD_eq_getElem?_getD, show (2 * k + i) / 2 = k + i / 2 by omega,
    show (2 * k + i) % 2 = i % 2 by omega]

/-! ### A pipeline reads its inputs only (45_pipelines R197) -/

/-- Two commands that computed the same leave the same flags. -/
theorem complete_flags_eq {α : Type} (s s' : State) (r : Except CmdError α)
    (store : State → α → State) (clear : State → State) :
    (s'.complete r store clear).status.err = (s.complete r store clear).status.err ∧
    (s'.complete r store clear).status.errcode = (s.complete r store clear).status.errcode ∧
    (s'.complete r store clear).errinfo = (s.complete r store clear).errinfo := by
  cases r <;> exact ⟨rfl, rfl, rfl⟩

theorem complete_blkout_eq (s s' : State) (r : Except CmdError (List Byte)) :
    (s'.complete r State.putBlkout State.clearBlkout).blkout =
      (s.complete r State.putBlkout State.clearBlkout).blkout ∧
    (s'.complete r State.putBlkout State.clearBlkout).outlen =
      (s.complete r State.putBlkout State.clearBlkout).outlen := by
  cases r <;> exact ⟨rfl, rfl⟩

theorem complete_pinout_eq (s s' : State) (r : Except CmdError (List Byte)) :
    (s'.complete r State.putPinout State.clearPinout).pinout =
      (s.complete r State.putPinout State.clearPinout).pinout ∧
    (s'.complete r State.putPinout State.clearPinout).pinoutLen =
      (s.complete r State.putPinout State.clearPinout).pinoutLen := by
  cases r <;> exact ⟨rfl, rfl⟩

end

/-! ### The obligations -/

/-- Settles O48: every check passes, and the XOR of the two packed fields is encrypted.
(`encodeResult` names the model's own function.) -/
theorem encodeBlock : Obligations.EncodeResult := by
  refine ⟨rfl, fun s hk hf h1 h9 h13 h24 hpin hpan => ?_⟩
  have henc : s.snapshot.Encodable := ⟨hk, hf, h1, h9, h13, h24, hpin, hpan⟩
  obtain ⟨key, a, b, hkey, hp, hs, ha, hb, -, -, hres⟩ := henc.result
  exact ⟨_, key, _, _, a, b, exec_encode_of_ok hres, hkey, hp, hs, ha, hb,
    blockOfBytes_bytesOfBlock _, rfl, succeededFrom_succeed (sameBut_putBlkout _ _),
    sameBut_succeed (sameBut_putBlkout _ _)⟩

/-- Settles O49: the check that fails, with the ones before it passed. -/
theorem encodeErrorOrder : Obligations.EncodeErrorOrder := by
  intro s x
  have expanded : x.keylen = 8 ∨ x.keylen = 16 ∨ x.keylen = 24 →
      ∃ key, expandKey x.key x.keylen = .ok key := expandKey_of_legal
  refine ⟨fun hk => ?key, fun hk hl => ?pinLen, fun hk ⟨h1, h9⟩ hf => ?format,
    fun hk ⟨h1, h9⟩ hf hl => ?panLen, fun hk ⟨h1, h9⟩ hf ⟨h13, h24⟩ hpin => ?pinHex,
    fun hk ⟨h1, h9⟩ hf ⟨h13, h24⟩ hpin hpan => ?panHex,
    fun hk ⟨h1, h9⟩ hf ⟨h13, h24⟩ hpin hpan => ?passed⟩
  case key => exact exec_encode_of_error (encodeResult_of_key_error (expandKey_of_illegal hk))
  case pinLen =>
    obtain ⟨key, hkey⟩ := expanded hk
    exact exec_encode_of_error (encodeResult_of_padPin_error hkey (padPin_of_length_illegal hl))
  case format =>
    obtain ⟨key, hkey⟩ := expanded hk
    exact exec_encode_of_error (encodeResult_of_format_ne hkey h1 h9 hf)
  case panLen =>
    obtain ⟨key, hkey⟩ := expanded hk
    refine exec_encode_of_error (e := .panSize x.panlen) (encodeResult_of_shiftPan_error hkey
      (padPin_of_format_zero hf h1 h9) hf ?_)
    rw [hf, shiftPan_of_length_illegal hl]
  case pinHex =>
    obtain ⟨key, hkey⟩ := expanded hk
    have hbad := pack_of_not_hex (field := .paddedPin) (mt (pinField_hex_iff h9).1 hpin)
    exact exec_encode_of_error ((encodeResult_of_fields hkey (padPin_of_format_zero hf h1 h9) hf
      (shiftPan_of_format_zero hf h13 h24)).trans (encryptFields_of_pin_error hbad))
  case panHex =>
    obtain ⟨key, hkey⟩ := expanded hk
    obtain ⟨a, ha⟩ := pack_of_hex (field := .paddedPin) (length_pinField h9)
      ((pinField_hex_iff h9).2 hpin)
    have hbad := pack_of_not_hex (field := .shiftedPan) (mt (shiftedField_hex_iff h13 h24).1 hpan)
    exact exec_encode_of_error ((encodeResult_of_fields hkey (padPin_of_format_zero hf h1 h9) hf
      (shiftPan_of_format_zero hf h13 h24)).trans (encryptFields_of_pan_error ha hbad))
  case passed =>
    have henc : x.Encodable := ⟨hk, hf, h1, h9, h13, h24, hpin, hpan⟩
    obtain ⟨key, a, b, -, -, -, -, -, -, -, hres⟩ := henc.result
    exact ⟨_, exec_encode_of_ok hres, rfl⟩

/-- Settles O50: the characters of the nibbles after the length byte of the clear block.
(`decodeResult` names the model's own function.) -/
theorem decodePin : Obligations.DecodeResult := by
  refine ⟨rfl, fun s key sf b hk hf hs hb hl => ?_⟩
  refine ⟨_, exec_decode_of_ok (decodeResult_of_length hk hf hs hb hl), ?length, fun i h => ?pinout,
    succeededFrom_succeed (sameBut_putPinout _ _), sameBut_succeed (sameBut_putPinout _ _)⟩
  case length =>
    rw [State.succeed_pinoutLen, State.putPinout_pinoutLen, List.length_map, List.length_range]
    exact Nat.mod_eq_of_lt (Nat.lt_of_le_of_lt hl (by decide))
  case pinout =>
    rw [State.succeed_pinout, State.putPinout_pinout, getElem_fit_map_range _ h]
    refine ite_congr rfl (fun _ => ?_) (fun _ => rfl)
    rw [nibbleAt_drop, nibbleAt_eq, show (2 * 1 + i) / 2 = 1 + i / 2 by omega,
      show (2 * 1 + i) % 2 = i % 2 by omega]
    rfl

/-- Settles O51: the check that fails, with the ones before it passed. -/
theorem decodeErrorOrder : Obligations.DecodeErrorOrder := by
  intro s x
  refine ⟨fun hk => ?key, fun key hkey => ⟨fun hf => ?format, fun hf hl => ?panLen,
    fun hf ⟨h13, h24⟩ hpan => ?panHex, fun sf b hf hs hb hl => ?length⟩⟩
  case key => exact exec_decode_of_error (decodeResult_of_key_error (expandKey_of_illegal hk))
  case format => exact exec_decode_of_error (decodeResult_of_format_ne hkey hf)
  case panLen =>
    refine exec_decode_of_error (e := .panSize x.panlen)
      (decodeResult_of_shiftPan_error hkey hf ?_)
    rw [hf, shiftPan_of_length_illegal hl]
  case panHex =>
    have hbad := pack_of_not_hex (field := .shiftedPan) (mt (shiftedField_hex_iff h13 h24).1 hpan)
    exact exec_decode_of_error
      (decodeResult_of_pack_error hkey hf (shiftPan_of_format_zero hf h13 h24) hbad)
  case length =>
    exact exec_decode_of_error ((decodeResult_of_fields hkey hf hs hb).trans (if_pos hl))

/-- Settles O53: what each computes is a function of the operands it reads. -/
theorem pipelinesDependOnInputsOnly : Obligations.PipelinesDependOnInputsOnly := by
  refine ⟨fun s s' t t' h h' hx => ?encode, fun s s' t t' h h' hx => ?decode⟩
  case encode =>
    have hr : encodeResult s'.snapshot = encodeResult s.snapshot := by rw [hx]; rfl
    cases h
    cases h'
    rw [hr]
    obtain ⟨hblkout, houtlen⟩ := complete_blkout_eq s s' (encodeResult s.snapshot)
    exact ⟨hblkout, houtlen, complete_flags_eq ..⟩
  case decode =>
    have hr : decodeResult s'.snapshot = decodeResult s.snapshot := by rw [hx]; rfl
    cases h
    cases h'
    rw [hr]
    obtain ⟨hpinout, hlen⟩ := complete_pinout_eq s s' (decodeResult s.snapshot)
    exact ⟨hpinout, hlen, complete_flags_eq ..⟩

end Sys2Proof.Machine

/-! PROOFS of the other family, the pipelines chained: the round trip (45_pipelines R195), and the
primitives that compute what a pipeline computes (92_eei_decisions D31). -/

namespace Sys2Proof.Machine

section

variable {s t : State} {key kx : Vector Byte 24} {pin : Vector Byte 16} {pl : Word}
  {field : FieldId} {a b c bs cs : List Byte} {i j n : Nat}

/-! ### Issue and completion in one, command by command -/

theorem runCommand_expand (h : expandKey s.inputs.key s.inputs.keylen = .ok kx) :
    s.runCommand .expand = .next ((s.issue (encode .expand) 0).putKx kx).succeed :=
  exec_expand_of_ok h

theorem runCommand_padpin (h : padPin s.inputs.format s.inputs.pin s.inputs.pinlen = .ok cs) :
    s.runCommand .padpin = .next ((s.issue (encode .padpin) 0).putFielda cs).succeed :=
  exec_padpin_of_ok h

theorem runCommand_shiftpan (h : shiftPan s.inputs.format s.inputs.pan s.inputs.panlen = .ok cs) :
    s.runCommand .shiftpan = .next ((s.issue (encode .shiftpan) 0).putFieldb cs).succeed :=
  exec_shiftpan_of_ok h

theorem runCommand_encryptOut (hk : s.status.keyvalid = true) (ho : s.outlen = 8) :
    s.runCommand (.encrypt .blkout) = .next ((s.issue (encode (.encrypt .blkout)) 0).putBlkout
      (bytesOfBlock (tdesE s.kx (blockOfBytes s.blkout.toList)))).succeed :=
  congrArg _ (ciphered_of_checks (s := s.issue _ 0) (tdesE s.kx) hk fun _ => ho)

theorem runCommand_decryptIn (hk : s.status.keyvalid = true) :
    s.runCommand (.decrypt .input) = .next ((s.issue (encode (.decrypt .input)) 0).putBlkout
      (bytesOfBlock (tdesD s.kx (blockOfBytes s.inputs.blkin.toList)))).succeed :=
  congrArg _ (ciphered_of_checks (s := s.issue _ 0) (src := .input) (tdesD s.kx) hk nofun)

theorem runCommand_encode (h : encodeResult s.inputs = .ok bs) :
    s.runCommand .encode = .next ((s.issue (encode .encode) 0).putBlkout bs).succeed :=
  exec_encode_of_ok h

theorem runCommand_decode (h : decodeResult s.inputs = .ok cs) :
    s.runCommand .decode = .next ((s.issue (encode .decode) 0).putPinout cs).succeed :=
  exec_decode_of_ok h

theorem runCommand_bcd2dec {n : BitVec 4} (h : n.toNat ≤ s.outlen.toNat) :
    s.runCommand (.bcd2dec n) = .next ((s.issue (encode (.bcd2dec n)) 0).putAcc
      (bcdToDecimal (s.blkout.toList.take n.toNat))).succeed :=
  exec_bcd2dec_of_enough h

theorem runCommand_bcd2ascii {off : BitVec 4} {d : BitVec 5}
    (h : bcdToAscii (s.blkoutBytes.drop off.toNat) d.toNat = .ok cs) :
    s.runCommand (.bcd2ascii off d) =
      .next ((s.issue (encode (.bcd2ascii off d)) 0).putPinout cs).succeed :=
  congrArg _ (complete_ok h _ _)

/-- The two ways an ENCODE ends. -/
theorem exec_encode_cases (h : exec .encode s = .next t) :
    (∃ bs, encodeResult s.snapshot = .ok bs ∧ t = (s.putBlkout bs).succeed) ∨
    (∃ e, encodeResult s.snapshot = .error e ∧ t = s.clearBlkout.fail e) := by
  cases h
  exact complete_cases _ _ _

/-- The two ways a DECODE ends. -/
theorem exec_decode_cases (h : exec .decode s = .next t) :
    (∃ cs, decodeResult s.snapshot = .ok cs ∧ t = (s.putPinout cs).succeed) ∨
    (∃ e, decodeResult s.snapshot = .error e ∧ t = s.clearPinout.fail e) := by
  cases h
  exact complete_cases _ _ _

/-- An ENCODE that succeeds leaves its 8 bytes in BLKOUT. -/
theorem runCommand_encode_of_success (h : s.runCommand .encode = .next t)
    (he : t.status.err = false) :
    ∃ bs, encodeResult s.inputs = .ok bs ∧ t.blkout = fit 8 bs ∧ t.outlen = 8 := by
  rcases exec_encode_cases h with ⟨bs, hbs, rfl⟩ | ⟨e, -, rfl⟩
  · exact ⟨bs, hbs, rfl, congrArg (BitVec.ofNat 4) (encodeResult_length hbs)⟩
  · cases he

/-- A DECODE that succeeds leaves its characters in PINOUT. -/
theorem runCommand_decode_of_success (h : s.runCommand .decode = .next t)
    (he : t.status.err = false) :
    ∃ cs, decodeResult s.inputs = .ok cs ∧ t.pinout = fit 16 cs ∧
      t.pinoutLen = BitVec.ofNat 5 cs.length := by
  rcases exec_decode_cases h with ⟨cs, hcs, rfl⟩ | ⟨e, -, rfl⟩
  · exact ⟨cs, hcs, rfl, rfl⟩
  · cases he

/-! ### The round trip (45_pipelines R195) -/

/-- The nibbles of a packed field are those of its characters. -/
theorem nib_eq_nibbleAt (hp : pack field cs = .ok bs) (hj : j < cs.length) :
    nib (cs.getD j 0) = some (nibbleAt bs j) := by
  have hlen := pack_length hp
  obtain ⟨hhi, hlo⟩ := pack_nibbles hp (j / 2) (by omega)
  rw [nibbleAt_eq]
  rcases Nat.mod_two_eq_zero_or_one j with h | h
  · rw [show 2 * (j / 2) = j by omega] at hhi
    rw [hhi, h]; rfl
  · rw [show 2 * (j / 2) + 1 = j by omega] at hlo
    rw [hlo, h]; rfl

/-- A decimal digit is the character of its nibble. -/
theorem asc_of_nib_decimal {ch : Byte} {v : BitVec 4} (h : isDecimalChar ch = true)
    (hv : nib ch = some v) : asc v = ch := by
  simp only [isDecimalChar, Bool.and_eq_true, decide_eq_true_iff] at h
  rw [nib_of_digit h.1 h.2] at hv
  obtain rfl := Option.some.inj hv
  have hn : (BitVec.ofNat 4 (ch.toNat - 0x30)).toNat = ch.toNat - 0x30 := by
    rw [BitVec.toNat_ofNat, Nat.mod_eq_of_lt (by omega)]
  apply BitVec.eq_of_toNat_eq
  rw [toNat_asc_digit (by omega), hn]
  omega

theorem getD_pinField_pin (h9 : pl.toNat ≤ 9) (hi : i < pl.toNat) :
    (pinField pin pl).getD (2 + i) 0 = pin[i] := by
  rw [← fit_paddedField_pin (fmt := 0) (fill := 14 - pl.toNat) h9 hi, getElem_fit]
  rfl

/-- Byte 0 of the packed padded PIN field is PINLEN as two decimal digits. -/
theorem pairValue_pinField (h9 : pl.toNat ≤ 9) (hp : pack field (pinField pin pl) = .ok a) :
    pairValue (a.getD 0 0) = pl.toNat := by
  have hlen := length_pinField (pin := pin) h9
  have hn := toNat_lengthChar h9
  have h0 : some 0#4 = some (hiNibble (a.getD 0 0)) := nib_eq_nibbleAt (j := 0) hp (by omega)
  have h1 : nib (charZero + pl.setWidth 8) = some (loNibble (a.getD 0 0)) :=
    nib_eq_nibbleAt (j := 1) hp (by omega)
  rw [nib_of_digit (by omega) (by omega), hn, Nat.add_sub_cancel_left] at h1
  rw [pairValue, ← Option.some.inj h0, ← Option.some.inj h1, BitVec.toNat_ofNat, BitVec.toNat_ofNat]
  omega

/-- Decryption and the same mask undo ENCODE's block. -/
theorem clearBlock_of_encoded {blkin : Vector Byte 8} (ha : a.length = 8)
    (hblk : blockOfBytes blkin.toList = tdesE key (blockOfBytes a ^^^ blockOfBytes b)) :
    clearBlock key blkin b = a := by
  rw [clearBlock, hblk, tdesD_tdesE, BitVec.xor_assoc, BitVec.xor_self, BitVec.xor_zero,
    bytesOfBlock_blockOfBytes ha]

/-- The characters after the length byte are the PIN's. -/
theorem asc_nibbleAt_pinField (h9 : pl.toNat ≤ 9) (hi : i < pl.toNat)
    (hp : pack field (pinField pin pl) = .ok a) (hd : isDecimalChar pin[i] = true) :
    asc (nibbleAt (a.drop 1) i) = pin[i] := by
  have hlen := length_pinField (pin := pin) h9
  have hn := nib_eq_nibbleAt (j := 2 + i) hp (by omega)
  rw [getD_pinField_pin h9 hi] at hn
  rw [nibbleAt_drop]
  exact asc_of_nib_decimal hd hn

end

/-! ### The obligations -/

/-- Settles O52: decryption gives back the packed padded PIN field, whose nibbles are the PIN. -/
theorem encodeThenDecodeReturnsThePin : Obligations.EncodeThenDecodeReturnsThePin := by
  intro s x hf hk h1 h9 h13 h24 hpin hpan
  have henc : x.Encodable := {
    keylen := hk, format := hf, pin_ge := h1, pin_le := h9, pan_ge := h13, pan_le := h24
    pin_hex := fun i hi => by
      simpa [show i < 16 by omega] using isHexChar_of_decimal (hpin i (by omega) hi)
    pan_hex := fun i _ hi => by
      simpa [show i < 24 by omega] using isHexChar_of_decimal (hpan i (by omega) (by omega)) }
  obtain ⟨key, a, b, hkey, -, hs, ha, hb, hal, -, hres⟩ := henc.result
  have hclear : clearBlock key
      (fit 8 (bytesOfBlock (tdesE key (blockOfBytes a ^^^ blockOfBytes b)))) b = a := by
    apply clearBlock_of_encoded hal
    rw [toList_fit_of_length (length_bytesOfBlock _), blockOfBytes_bytesOfBlock]
  have hlen := pairValue_pinField h9 ha
  have hdec := decodeResult_of_length (x := { x with blkin := fit 8 _ }) hkey hf hs hb
    (by rw [hclear, hlen]; omega)
  simp only [hclear, hlen] at hdec
  refine ⟨_, _, runCommand_encode hres, rfl, runCommand_decode hdec, rfl, ?length, fun i h => ?pin⟩
  case length =>
    rw [State.succeed_pinoutLen, State.putPinout_pinoutLen, List.length_map, List.length_range]
    exact Nat.mod_eq_of_lt (Nat.lt_of_le_of_lt h9 (by decide))
  case pin =>
    rw [State.succeed_pinout, State.putPinout_pinout, getElem_fit_map_range _ h]
    exact ite_congr rfl (fun hi => asc_nibbleAt_pinField h9 hi ha (hpin i h hi)) fun _ => rfl

/-- Settles O54: each primitive computes the next of ENCODE's intermediate values. -/
theorem encodeEqualsItsPrimitives : Obligations.EncodeEqualsItsPrimitives := by
  intro s e h herr
  obtain ⟨bs, hres, hblkout, houtlen⟩ := runCommand_encode_of_success h herr
  obtain ⟨key, pf, sf, a, b, c, hkey, hp, hf, hs, ha, hb, hxor, rfl⟩ := encodeResult_ok hres
  have hpl : pf.length = 16 := by
    rcases (padPin_length hp).2 with ⟨-, hl⟩ | ⟨h13, -⟩
    · exact hl
    · rw [hf] at h13
      exact absurd h13 (by decide)
  have hsl : sf.length = 16 := shiftPan_length hs
  have hc : c.length = 8 := (xorBuffers_length hxor).trans (length_of_pack_sixteen hpl ha)
  refine ⟨_, _, _, _, _, runCommand_expand hkey, runCommand_padpin hp, runCommand_shiftpan hs,
    runCommand_mask (src := .input) (a := a) (b := b) ?fielda ?fieldb hxor,
    runCommand_encryptOut rfl ?outlen, rfl, rfl, rfl, rfl, rfl, ?blkout, houtlen.symm⟩
  case fielda => exact (congrArg _ (fieldaChars_putFielda (s := s) hpl.le)).trans ha
  case fieldb => exact (congrArg _ (fieldbChars_putFieldb (s := s) hsl.le)).trans hb
  case outlen => exact congrArg (BitVec.ofNat 4) hc
  case blkout =>
    rw [hblkout]
    exact congrArg (fun l => fit 8 (bytesOfBlock (tdesE key (blockOfBytes l))))
      (toList_fit_of_length hc)

/-- Settles O55: each primitive computes the next of DECODE's intermediate values. -/
theorem decodeEqualsItsPrimitives : Obligations.DecodeEqualsItsPrimitives := by
  intro s e h herr
  obtain ⟨cs, hres, hpinout, hpinoutLen⟩ := runCommand_decode_of_success h herr
  obtain ⟨key, sf, b, c, hkey, -, hs, hb, hxor, h10, hcs⟩ := decodeResult_ok hres
  have hsl : sf.length = 16 := shiftPan_length hs
  have hc : c.length = 8 := xorBuffers_length hxor
  have hlen : e.pinoutLen.toNat = bcdToDecimal (c.take 1) := by
    rw [hpinoutLen, (bcdToAscii_ok hcs).2, List.length_map, List.length_range]
    exact Nat.mod_eq_of_lt (Nat.lt_of_le_of_lt h10 (by decide))
  have hout : ∀ u : State, (u.putBlkout c).blkoutBytes = c := fun u => blkoutBytes_putBlkout hc.le
  refine ⟨_, _, _, _, _, _, runCommand_expand hkey, runCommand_shiftpan hs,
    runCommand_decryptIn rfl, runCommand_mask (src := .blkout) (b := b) ?block ?fieldb hxor,
    runCommand_bcd2dec ?enough, ?acc,
    runCommand_bcd2ascii (cs := cs) ?digits, rfl, rfl, rfl, rfl, rfl, rfl, hpinout.symm,
    hpinoutLen.symm⟩
  case block => exact congrArg Except.ok (blkoutBytes_putBlkout (s := s) (length_bytesOfBlock _).le)
  case fieldb => exact (congrArg _ (fieldbChars_putFieldb (s := s) hsl.le)).trans hb
  case enough =>
    have h8 : (BitVec.ofNat 4 c.length).toNat = 8 := by rw [hc]; rfl
    exact (by decide : 1 ≤ 8).trans h8.ge
  case acc =>
    rw [State.succeed_acc, State.putAcc_acc, BitVec.toNat_ofNat, hlen]
    refine (Nat.mod_eq_of_lt (bcdToDecimal_lt (by simp))).trans ?_
    exact congrArg (fun l => bcdToDecimal (l.take 1)) (toList_fit_of_length hc)
  case digits =>
    rw [hlen]
    exact (congrArg (fun l => bcdToAscii (l.drop 1) _) (hout s)).trans hcs

end Sys2Proof.Machine

/-! PROOFS of the other family, the assembler: what the loading statements leave in the input
registers (30_encoding R91, 20_memory R61). -/

namespace Sys2Proof.Machine

section

variable {s : State} {n off i j k : Nat} {v w : Word} {rest ops : List HostOp} {ws : List Word}
  {bs : List Byte} {lenOff : Nat}

/-! ### Consecutive words of an array (20_memory R61) -/

/-- Bus words stored one after the other from element `k` on. -/
def setWords (a : Vector Byte n) (k : Nat) : List Word → Vector Byte n
  | [] => a
  | w :: ws => setWords (setLanes a k w) (k + 4) ws

theorem getElem_setWords (a : Vector Byte n) (k : Nat) (ws : List Word) (h : i < n) :
    (setWords a k ws)[i] =
      if k ≤ i ∧ i < k + 4 * ws.length then byteOfWord (ws.getD ((i - k) / 4) 0) ((i - k) % 4)
      else a[i] := by
  induction ws generalizing a k with
  | nil => rw [if_neg (by simp)]; rfl
  | cons w ws ih =>
    rw [setWords, ih, List.length_cons]
    by_cases hfirst : k ≤ i ∧ i < k + 4
    · rw [if_neg (by omega), if_pos (by omega), getElem_setLanes, if_pos hfirst,
        show (i - k) / 4 = 0 by omega, show (i - k) % 4 = i - k by omega]
      rfl
    by_cases hrest : k + 4 ≤ i ∧ i < k + 4 + 4 * ws.length
    · rw [if_pos hrest, if_pos (by omega), show (i - k) / 4 = (i - (k + 4)) / 4 + 1 by omega,
        show (i - k) % 4 = (i - (k + 4)) % 4 by omega]
      rfl
    · rw [if_neg hrest, if_neg (by omega), getElem_setLanes, if_neg hfirst]

theorem byteOfWord_zero (k : Nat) : byteOfWord 0 k = 0 := by
  simp [byteOfWord]

theorem byteOfWord_wordOfBytes_getD (b0 b1 b2 b3 : Byte) (hk : k < 4) :
    byteOfWord (wordOfBytes b0 b1 b2 b3) k = [b0, b1, b2, b3].getD k 0 := by
  obtain ⟨h0, h1, h2, h3⟩ := byteOfWord_wordOfBytes b0 b1 b2 b3
  interval_cases k
  exacts [h0, h1, h2, h3]

/-- Byte `i` of consecutive words is in the first word or in a later one. -/
theorem byteOfWord_cons (b0 b1 b2 b3 : Byte) (ws : List Word) (i : Nat) :
    byteOfWord ((wordOfBytes b0 b1 b2 b3 :: ws).getD (i / 4) 0) (i % 4) =
      if i < 4 then [b0, b1, b2, b3].getD i 0
      else byteOfWord (ws.getD ((i - 4) / 4) 0) ((i - 4) % 4) := by
  split_ifs with h
  · rw [show i / 4 = 0 by omega, show i % 4 = i by omega]
    exact byteOfWord_wordOfBytes_getD b0 b1 b2 b3 h
  · rw [show i / 4 = (i - 4) / 4 + 1 by omega, show i % 4 = (i - 4) % 4 by omega]
    rfl

/-- The zeros that fill the last word are not seen past the end of the string. -/
theorem getD_append_zeros (bs : List Byte) (m i : Nat) :
    (bs ++ List.replicate m 0#8).getD i 0 = bs.getD i 0 := by
  rcases Nat.lt_or_ge i bs.length with h | h
  · exact List.getD_append _ _ _ _ h
  · rw [List.getD_append_right _ _ _ _ h, List.getD_eq_default _ _ h, List.getD_eq_getElem?_getD,
      List.getElem?_replicate]
    split_ifs <;> rfl

/-- The last word of a string, filled with zeros. -/
theorem byteOfWord_lastWord {b0 b1 b2 b3 : Byte} {m : Nat}
    (h : bs ++ List.replicate m 0#8 = [b0, b1, b2, b3]) (i : Nat) :
    byteOfWord ([wordOfBytes b0 b1 b2 b3].getD (i / 4) 0) (i % 4) = bs.getD i 0 := by
  rw [byteOfWord_cons, ← getD_append_zeros bs m, h]
  split_ifs with h4
  · rfl
  · rw [List.getD_eq_default (l := [b0, b1, b2, b3]) _ (Nat.le_of_not_lt h4)]
    exact byteOfWord_zero _

/-- The bytes of the words of a string are those of the string, 0 above it. -/
theorem byteOfWord_wordsOf (bs : List Byte) (i : Nat) :
    byteOfWord ((wordsOf bs).getD (i / 4) 0) (i % 4) = bs.getD i 0 := by
  fun_induction wordsOf bs generalizing i with
  | case1 => exact byteOfWord_zero _
  | case2 a => exact byteOfWord_lastWord (m := 3) rfl i
  | case3 a b => exact byteOfWord_lastWord (m := 2) rfl i
  | case4 a b c => exact byteOfWord_lastWord (m := 1) rfl i
  | case5 a b c d rest ih =>
    rw [byteOfWord_cons, ih]
    split_ifs with h4
    · exact (List.getD_append [a, b, c, d] rest 0 i h4).symm
    · exact (List.getD_append_right [a, b, c, d] rest 0 i (Nat.le_of_not_lt h4)).symm

theorem length_wordsOf (bs : List Byte) : (wordsOf bs).length = (bs.length + 3) / 4 := by
  fun_induction wordsOf bs with
  | case1 => rfl
  | case2 | case3 | case4 => simp
  | case5 a b c d rest ih => simp only [List.length_cons, ih]; omega

/-- The words of a string stored from element 0 on. -/
theorem getElem_setWords_wordsOf (a : Vector Byte n) (bs : List Byte) (h : i < n) :
    (setWords a 0 (wordsOf bs))[i] =
      if i < bs.length then bs.getD i 0
      else if i < 4 * ((bs.length + 3) / 4) then 0
      else a[i] := by
  rw [getElem_setWords, length_wordsOf, Nat.sub_zero, byteOfWord_wordsOf]
  by_cases hlen : i < bs.length
  · rw [if_pos (by omega), if_pos hlen]
  · rw [if_neg hlen, List.getD_eq_default _ _ (by omega)]
    exact if_congr (by omega) rfl rfl

/-! ### The input arrays -/

/-- An input array of `n` bytes in the register window (10_state R21). -/
structure InputArray (n : Nat) where
  /-- The offset of its first byte. -/
  base : Nat
  get : Inputs → Vector Byte n
  put : Inputs → Vector Byte n → Inputs
  size : n % 4 = 0
  aligned : base % 4 = 0
  base_ge : 4 ≤ base
  base_le : base + n ≤ 0x100
  get_put : ∀ x a, get (put x a) = a
  put_put : ∀ x a a', put (put x a) a' = put x a'
  put_get : ∀ x, put x (get x) = x
  /-- A write to a word of the array. -/
  store : ∀ x w j, 4 * j < n →
    (locate (base + 4 * j)).store x w = put x (setLanes (get x) (4 * j) w)

def keyArray : InputArray 24 where
  base := 0x020
  get x := x.key
  put x a := { x with key := a }
  size := rfl
  aligned := rfl
  base_ge := by decide
  base_le := by decide
  get_put _ _ := rfl
  put_put _ _ _ := rfl
  put_get _ := rfl
  store _ _ _ h := by rw [locate_key (by omega)]; rfl

def pinArray : InputArray 16 where
  base := 0x040
  get x := x.pin
  put x a := { x with pin := a }
  size := rfl
  aligned := rfl
  base_ge := by decide
  base_le := by decide
  get_put _ _ := rfl
  put_put _ _ _ := rfl
  put_get _ := rfl
  store _ _ _ h := by rw [locate_pin (by omega)]; rfl

def panArray : InputArray 24 where
  base := 0x050
  get x := x.pan
  put x a := { x with pan := a }
  size := rfl
  aligned := rfl
  base_ge := by decide
  base_le := by decide
  get_put _ _ := rfl
  put_put _ _ _ := rfl
  put_get _ := rfl
  store _ _ _ h := by rw [locate_pan (by omega)]; rfl

def blkinArray : InputArray 8 where
  base := 0x068
  get x := x.blkin
  put x a := { x with blkin := a }
  size := rfl
  aligned := rfl
  base_ge := by decide
  base_le := by decide
  get_put _ _ := rfl
  put_put _ _ _ := rfl
  put_get _ := rfl
  store _ _ _ h := by rw [locate_blkin (by omega)]; rfl

/-! ### Runs of writes from an idle block -/

/-- `s` with the input registers `x` and the statements `rest` still to perform. -/
def State.stored (s : State) (x : Inputs) (rest : List HostOp) : State :=
  { s with hostOps := rest, inputs := x }

/-- One write beside CMD. -/
theorem run_stmtWr (hl : s.latch = none) (ho : s.hostOps = stmtWr off v :: rest) (h4 : off % 4 = 0)
    (hge : 4 ≤ off) (hlt : off < 0x100) :
    Host.Core.run core (k + 1) s =
      Host.Core.run core k (s.stored ((locate off).store s.inputs v) rest) := by
  apply run_succ
  rw [step_of_wr (hostTurn_of_latch_none hl) ho (if_pos hlt) h4, writeWindow_of_ne hge,
    passed_of_latch_none hl]
  rfl

theorem length_storeWords (off : Nat) (ws : List Word) :
    (storeWords off ws).length = ws.length := by
  induction ws generalizing off with
  | nil => rfl
  | cons w ws ih => rw [storeWords, List.length_cons, ih, List.length_cons]

theorem run_storeWords (A : InputArray n) (hl : s.latch = none)
    (ho : s.hostOps = storeWords (A.base + 4 * j) ws) (hn : 4 * (j + ws.length) ≤ n) :
    Host.Core.run core ws.length s =
      .next (s.stored (A.put s.inputs (setWords (A.get s.inputs) (4 * j) ws)) []) := by
  induction ws generalizing s j with
  | nil =>
    rw [storeWords] at ho
    rw [setWords, A.put_get, ← ho]
    rfl
  | cons w ws ih =>
    have haligned := A.aligned
    have hge := A.base_ge
    have hle := A.base_le
    rw [List.length_cons] at hn
    refine (run_stmtWr hl ho (by omega) (by omega) (by omega)).trans ?_
    rw [A.store _ _ _ (by omega)]
    refine (ih (s := s.stored _ _) (j := j + 1) (by exact hl) rfl (by omega)).trans ?_
    simp only [State.stored, A.put_put, A.get_put]
    rfl

/-- What a length write and the words of an operand leave. -/
theorem run_loadString (A : InputArray n) (hl : s.latch = none) (ho : s.hostOps = ops)
    (hops : loadString lenOff A.base n bs = some ops) (h4 : lenOff % 4 = 0) (hge : 4 ≤ lenOff)
    (hlt : lenOff < 0x100) :
    bs.length ≤ n ∧ ∀ x, (locate lenOff).store s.inputs (BitVec.ofNat 32 bs.length) = x →
      Host.Core.run core ops.length s =
        .next (s.stored (A.put x (setWords (A.get x) 0 (wordsOf bs))) []) := by
  unfold loadString at hops
  split_ifs at hops with hcap
  obtain rfl := Option.some.inj hops
  refine ⟨hcap, ?_⟩
  rintro x rfl
  have hsize := A.size
  have hn : 4 * (0 + (wordsOf bs).length) ≤ n := by rw [length_wordsOf]; omega
  rw [List.length_cons, length_storeWords]
  exact (run_stmtWr hl ho h4 hge hlt).trans
    (run_storeWords A (s := s.stored _ _) (by exact hl) rfl hn)

theorem loadString_eq_none_iff {cap : Nat} :
    loadString lenOff off cap bs = none ↔ cap < bs.length := by
  unfold loadString
  split_ifs with h <;> simp <;> omega

end

/-- Settles O56: the length write and the word writes, one after the other. -/
theorem loadStatementsFillRegisters : Obligations.LoadStatementsFillRegisters := by
  refine ⟨fun bs ops s hl ho => ⟨fun h => ?pin, fun h => ?pan, fun h => ?key, fun h => ?blk⟩,
    fun f s hl ho => ?fmt, fun bs => ⟨loadString_eq_none_iff, loadString_eq_none_iff,
      loadString_eq_none_iff, ?blkLength⟩⟩
  case pin =>
    obtain ⟨hcap, hrun⟩ := run_loadString pinArray hl ho h rfl (by decide) (by decide)
    exact ⟨_, hrun _ rfl, Nat.mod_eq_of_lt (by omega),
      fun i hi => getElem_setWords_wordsOf s.inputs.pin bs hi, rfl⟩
  case pan =>
    obtain ⟨hcap, hrun⟩ := run_loadString panArray hl ho h rfl (by decide) (by decide)
    exact ⟨_, hrun _ rfl, Nat.mod_eq_of_lt (by omega),
      fun i hi => getElem_setWords_wordsOf s.inputs.pan bs hi, rfl⟩
  case key =>
    obtain ⟨hcap, hrun⟩ := run_loadString keyArray hl ho h rfl (by decide) (by decide)
    exact ⟨_, hrun _ rfl, Nat.mod_eq_of_lt (by omega),
      fun i hi => getElem_setWords_wordsOf s.inputs.key bs hi, rfl⟩
  case blk =>
    unfold stmtLdBlk at h
    split_ifs at h with h8
    obtain rfl := Option.some.inj h
    have hn : 4 * (0 + (wordsOf bs).length) ≤ 8 := by rw [length_wordsOf]; omega
    have hfit : setWords s.inputs.blkin 0 (wordsOf bs) = fit 8 bs := by
      apply Vector.ext
      intro i hi
      rw [getElem_setWords_wordsOf _ _ hi, if_pos (by omega), getElem_fit]
      rfl
    rw [length_storeWords]
    exact ⟨_, run_storeWords blkinArray hl ho hn,
      (congrArg Vector.toList hfit).trans (toList_fit_of_length h8), rfl⟩
  case fmt =>
    exact ⟨_, run_stmtWr hl ho rfl (by decide) (by decide), BitVec.toNat_setWidth .., rfl⟩
  case blkLength =>
    unfold stmtLdBlk
    split_ifs with h <;> simp [h]

end Sys2Proof.Machine
